-- ==== Sys2Proof/Word.lean ====
section
/-! DEFINITION. The word types of the core: a bus word is 32 bits, a field element or buffer byte
8 bits, a word-list index 11 bits (00_scope.md R12, R14; 10_state.md R44). -/

namespace Sys2Proof

/-- A byte: a field element, a character, one byte of a buffer. -/
abbrev Byte := BitVec 8

/-- A bus word, also a command word (`BUS_WIDTH`, R12). -/
abbrev Word := BitVec 32

/-- An 11-bit word-list index (`WORD_BITS`, R12). -/
abbrev WordIndex := BitVec 11

end Sys2Proof
end

