-- ==== Sys2Proof/Syntax.lean ====
section
/-! DEFINITION. The commands: one constructor per row of spec/opcode_table.json (30_encoding.md R90).
Operands are the used fields of the command word, unsigned 8-bit numbers (R88). -/

namespace Sys2Proof

/-- A command of rule R90. -/
inductive Instr where
  /-- NOP (R185). -/
  | nop
  /-- GF.ADD a, b (R128). -/
  | gfAdd (a b : Byte)
  /-- GF.MUL a, b (R129). -/
  | gfMul (a b : Byte)
  /-- GF.INV a (R130). -/
  | gfInv (a : Byte)
  /-- SH.EVAL t, x, slot (R140). -/
  | shEval (t x slot : Byte)
  /-- SH.GENCOEF t (R141). -/
  | shGencoef (t : Byte)
  /-- SH.SPLIT t, n (R142). -/
  | shSplit (t n : Byte)
  /-- SH.INTERP t (R147). -/
  | shInterp (t : Byte)
  /-- SH.LOADPT slot (R143). -/
  | shLoadpt (slot : Byte)
  /-- SH.STOREPT x, slot (R144). -/
  | shStorept (x slot : Byte)
  /-- CK.COMPUTE (R111). -/
  | ckCompute
  /-- CK.VERIFY c (R112). -/
  | ckVerify (c : Byte)
  /-- MN.ENCODE (R117). -/
  | mnEncode
  /-- MN.DECODE (R118). -/
  | mnDecode
  /-- WL.INDEX slot (R105). -/
  | wlIndex (slot : Byte)
  /-- WL.WORD slot (R106). -/
  | wlWord (slot : Byte)
  /-- DG.TODIGITS (R170). -/
  | dgTodigits
  /-- DG.FROMDIGITS (R171). -/
  | dgFromdigits
  /-- SS.ENCODE (R157). -/
  | ssEncode
  /-- SS.DECODE with the field F1, whose bit 0 is PUSH (R88, R158). -/
  | ssDecode (push : Byte)
  /-- SS.CLEAR (R159). -/
  | ssClear
  /-- SS.RECOVER (R162). -/
  | ssRecover
  /-- SS.GENID (R160). -/
  | ssGenid
  /-- ZEROIZE (R186). -/
  | zeroize
deriving DecidableEq, Repr

end Sys2Proof
end

