-- ==== Sys2Proof/WellFormed.lean ====
section
/-! DEFINITION. Which terms of `Instr` are commands of rule R90: operands are bytes by their type, so the
one check left is that SS.DECODE's F1 has bits 7:1 clear (30_encoding.md R88, R91). -/

namespace Sys2Proof

/-- The reserved bits 7:1 of SS.DECODE's F1 (R91). -/
def pushReservedBits : Byte := 0xFE

/-- The instruction is a command of rule R90. -/
def Instr.wellFormed : Instr → Bool
  | .nop => true
  | .gfAdd _ _ => true
  | .gfMul _ _ => true
  | .gfInv _ => true
  | .shEval _ _ _ => true
  | .shGencoef _ => true
  | .shSplit _ _ => true
  | .shInterp _ => true
  | .shLoadpt _ => true
  | .shStorept _ _ => true
  | .ckCompute => true
  | .ckVerify _ => true
  | .mnEncode => true
  | .mnDecode => true
  | .wlIndex _ => true
  | .wlWord _ => true
  | .dgTodigits => true
  | .dgFromdigits => true
  | .ssEncode => true
  | .ssDecode push => push &&& pushReservedBits == 0
  | .ssClear => true
  | .ssRecover => true
  | .ssGenid => true
  | .zeroize => true

end Sys2Proof
end

