-- ==== Sys2Proof/Decode.lean ====
section
/-! DEFINITION. The command word's format, the total decoder and the encoder (30_encoding.md R86 to R93). -/

namespace Sys2Proof

/-- OP, bits 7:0 (R86). -/
def opField (w : Word) : Byte := w.extractLsb' 0 8

/-- F1, bits 15:8 (R86, R88). -/
def f1Field (w : Word) : Byte := w.extractLsb' 8 8

/-- F2, bits 23:16 (R86, R88). -/
def f2Field (w : Word) : Byte := w.extractLsb' 16 8

/-- F3, bits 31:24 (R86, R88). -/
def f3Field (w : Word) : Byte := w.extractLsb' 24 8

/-- The word `OP | F1<<8 | F2<<16 | F3<<24` (R86, R100). -/
def commandWord (op f1 f2 f3 : Byte) : Word := f3 ++ f2 ++ f1 ++ op

/-- Why a word is illegal (R93); both reasons complete with `IllegalCommand` and INDEX = OP. -/
inductive DecodeReject where
  /-- OP is not in the table of rule R90 (R92). -/
  | reservedOpcode (op : Byte)
  /-- An unused field, or a reserved bit of SS.DECODE's F1, is not 0 (R91). -/
  | reservedField (op : Byte)
deriving DecidableEq, Repr

/-- The OP field of the rejected word, the INDEX of its `IllegalCommand` (R91, R92, R189). -/
def DecodeReject.op : DecodeReject → Byte
  | .reservedOpcode op => op
  | .reservedField op => op

/-- A command whose unused bits `unused` must all be 0 (R91). -/
def withUnusedZero (op : Byte) (unused : List Byte) (i : Instr) : Except DecodeReject Instr :=
  if unused.all (· == 0) then .ok i else .error (.reservedField op)

/-- The command of a word, or why it is illegal (R90 to R93, and the first two checks of R96). -/
def decode (w : Word) : Except DecodeReject Instr :=
  let op := opField w
  let f1 := f1Field w
  let f2 := f2Field w
  let f3 := f3Field w
  match op.toNat with
  | 0x00 => withUnusedZero op [f1, f2, f3] .nop
  | 0x01 => withUnusedZero op [f3] (.gfAdd f1 f2)
  | 0x02 => withUnusedZero op [f3] (.gfMul f1 f2)
  | 0x03 => withUnusedZero op [f2, f3] (.gfInv f1)
  | 0x10 => withUnusedZero op [] (.shEval f1 f2 f3)
  | 0x11 => withUnusedZero op [f2, f3] (.shGencoef f1)
  | 0x12 => withUnusedZero op [f3] (.shSplit f1 f2)
  | 0x13 => withUnusedZero op [f2, f3] (.shInterp f1)
  | 0x14 => withUnusedZero op [f1, f2] (.shLoadpt f3)
  | 0x15 => withUnusedZero op [f1] (.shStorept f2 f3)
  | 0x20 => withUnusedZero op [f1, f2, f3] .ckCompute
  | 0x21 => withUnusedZero op [f2, f3] (.ckVerify f1)
  | 0x30 => withUnusedZero op [f1, f2, f3] .mnEncode
  | 0x31 => withUnusedZero op [f1, f2, f3] .mnDecode
  | 0x38 => withUnusedZero op [f1, f2] (.wlIndex f3)
  | 0x39 => withUnusedZero op [f1, f2] (.wlWord f3)
  | 0x40 => withUnusedZero op [f1, f2, f3] .dgTodigits
  | 0x41 => withUnusedZero op [f1, f2, f3] .dgFromdigits
  | 0x50 => withUnusedZero op [f1, f2, f3] .ssEncode
  | 0x51 => withUnusedZero op [f1 &&& pushReservedBits, f2, f3] (.ssDecode f1)
  | 0x52 => withUnusedZero op [f1, f2, f3] .ssClear
  | 0x53 => withUnusedZero op [f1, f2, f3] .ssRecover
  | 0x54 => withUnusedZero op [f1, f2, f3] .ssGenid
  | 0x7F => withUnusedZero op [f1, f2, f3] .zeroize
  | _ => .error (.reservedOpcode op)

/-- The word of a command (R90, R100); an unused field is 0 (R91). -/
def encode : Instr → Word
  | .nop => commandWord 0x00 0 0 0
  | .gfAdd a b => commandWord 0x01 a b 0
  | .gfMul a b => commandWord 0x02 a b 0
  | .gfInv a => commandWord 0x03 a 0 0
  | .shEval t x slot => commandWord 0x10 t x slot
  | .shGencoef t => commandWord 0x11 t 0 0
  | .shSplit t n => commandWord 0x12 t n 0
  | .shInterp t => commandWord 0x13 t 0 0
  | .shLoadpt slot => commandWord 0x14 0 0 slot
  | .shStorept x slot => commandWord 0x15 0 x slot
  | .ckCompute => commandWord 0x20 0 0 0
  | .ckVerify c => commandWord 0x21 c 0 0
  | .mnEncode => commandWord 0x30 0 0 0
  | .mnDecode => commandWord 0x31 0 0 0
  | .wlIndex slot => commandWord 0x38 0 0 slot
  | .wlWord slot => commandWord 0x39 0 0 slot
  | .dgTodigits => commandWord 0x40 0 0 0
  | .dgFromdigits => commandWord 0x41 0 0 0
  | .ssEncode => commandWord 0x50 0 0 0
  | .ssDecode push => commandWord 0x51 push 0 0
  | .ssClear => commandWord 0x52 0 0 0
  | .ssRecover => commandWord 0x53 0 0 0
  | .ssGenid => commandWord 0x54 0 0 0
  | .zeroize => commandWord 0x7F 0 0 0

/-- A row of the opcode table: the command of a word `w` is this one exactly when
`w &&& mask = pattern`. -/
structure OpcodeRow where
  mnemonic : String
  pattern : Word
  mask : Word
deriving DecidableEq, Repr

/-- The rows for the field arithmetic, the Shamir unit and the checksum engine (R90). -/
def opcodeTableLow : List OpcodeRow :=
  [⟨"NOP", 0x00000000, 0xFFFFFFFF⟩, ⟨"GF.ADD", 0x00000001, 0xFF0000FF⟩,
    ⟨"GF.MUL", 0x00000002, 0xFF0000FF⟩, ⟨"GF.INV", 0x00000003, 0xFFFF00FF⟩,
    ⟨"SH.EVAL", 0x00000010, 0x000000FF⟩, ⟨"SH.GENCOEF", 0x00000011, 0xFFFF00FF⟩,
    ⟨"SH.SPLIT", 0x00000012, 0xFF0000FF⟩, ⟨"SH.INTERP", 0x00000013, 0xFFFF00FF⟩,
    ⟨"SH.LOADPT", 0x00000014, 0x00FFFFFF⟩, ⟨"SH.STOREPT", 0x00000015, 0x0000FFFF⟩,
    ⟨"CK.COMPUTE", 0x00000020, 0xFFFFFFFF⟩, ⟨"CK.VERIFY", 0x00000021, 0xFFFF00FF⟩]

/-- The rows for the codecs and the control commands (R90). -/
def opcodeTableHigh : List OpcodeRow :=
  [⟨"MN.ENCODE", 0x00000030, 0xFFFFFFFF⟩, ⟨"MN.DECODE", 0x00000031, 0xFFFFFFFF⟩,
    ⟨"WL.INDEX", 0x00000038, 0x00FFFFFF⟩, ⟨"WL.WORD", 0x00000039, 0x00FFFFFF⟩,
    ⟨"DG.TODIGITS", 0x00000040, 0xFFFFFFFF⟩, ⟨"DG.FROMDIGITS", 0x00000041, 0xFFFFFFFF⟩,
    ⟨"SS.ENCODE", 0x00000050, 0xFFFFFFFF⟩, ⟨"SS.DECODE", 0x00000051, 0xFFFFFEFF⟩,
    ⟨"SS.CLEAR", 0x00000052, 0xFFFFFFFF⟩, ⟨"SS.RECOVER", 0x00000053, 0xFFFFFFFF⟩,
    ⟨"SS.GENID", 0x00000054, 0xFFFFFFFF⟩, ⟨"ZEROIZE", 0x0000007F, 0xFFFFFFFF⟩]

/-- spec/opcode_table.json, row by row; the decoder is written from rule R90 and does not use it. -/
def opcodeTable : List OpcodeRow := opcodeTableLow ++ opcodeTableHigh

/-- The table's mnemonic of a command. -/
def Instr.mnemonic : Instr → String
  | .nop => "NOP"
  | .gfAdd _ _ => "GF.ADD"
  | .gfMul _ _ => "GF.MUL"
  | .gfInv _ => "GF.INV"
  | .shEval _ _ _ => "SH.EVAL"
  | .shGencoef _ => "SH.GENCOEF"
  | .shSplit _ _ => "SH.SPLIT"
  | .shInterp _ => "SH.INTERP"
  | .shLoadpt _ => "SH.LOADPT"
  | .shStorept _ _ => "SH.STOREPT"
  | .ckCompute => "CK.COMPUTE"
  | .ckVerify _ => "CK.VERIFY"
  | .mnEncode => "MN.ENCODE"
  | .mnDecode => "MN.DECODE"
  | .wlIndex _ => "WL.INDEX"
  | .wlWord _ => "WL.WORD"
  | .dgTodigits => "DG.TODIGITS"
  | .dgFromdigits => "DG.FROMDIGITS"
  | .ssEncode => "SS.ENCODE"
  | .ssDecode _ => "SS.DECODE"
  | .ssClear => "SS.CLEAR"
  | .ssRecover => "SS.RECOVER"
  | .ssGenid => "SS.GENID"
  | .zeroize => "ZEROIZE"

/-- The decoder's answer for the low `nbits` bits of `w`, the bits above them 0: a command is one
32-bit word, so its bits are the table's own (R87). -/
def decodeTableWord (nbits w : Nat) : Option Instr :=
  (decode (BitVec.ofNat 32 (w % 2 ^ nbits))).toOption

end Sys2Proof
end

