-- ==== Sys2Proof/Machine/BitString.lean ====
section
/-! DEFINITION. Bit strings, first bit most significant (00_scope.md R15), and the byte packing of a bus
word (20_memory.md R60, R68). -/

namespace Sys2Proof.Machine

/-- A bit string, its first bit the most significant (R15). -/
abbrev BitString := List Bool

/-- `bits_n(v)`: the n-bit big-endian bit string of `v` (R15). -/
def bitsOf (n v : Nat) : BitString := (List.range n).map fun i => v.testBit (n - 1 - i)

/-- `num(s)`: the number a bit string denotes (R15). -/
def num (s : BitString) : Nat := s.foldl (fun v b => 2 * v + b.toNat) 0

/-- `bytes_bits(B)`: byte 0 first, each byte most-significant bit first (R15). -/
def bytesBits (bytes : List Byte) : BitString := bytes.flatMap fun b => bitsOf 8 b.toNat

/-- `s[i..j)` (R15). -/
def slice (s : BitString) (i j : Nat) : BitString := (s.drop i).take (j - i)

/-- `zeros(n)` (R15). -/
def zeros (n : Nat) : BitString := List.replicate n false

/-- The first `n` 11-bit groups of `s` as word indices (R115, R153). -/
def sliceWords (s : BitString) (n : Nat) : List WordIndex :=
  (List.range n).map fun i => BitVec.ofNat 11 (num (slice s (11 * i) (11 * i + 11)))

/-- `bits_11(ws[0]) ++ …` (R118, R158). -/
def joinWords (ws : List WordIndex) : BitString := ws.flatMap fun w => bitsOf 11 w.toNat

/-- The first `n` bytes of `s` (R118). -/
def sliceBytes (s : BitString) (n : Nat) : List Byte :=
  (List.range n).map fun j => BitVec.ofNat 8 (num (slice s (8 * j) (8 * j + 8)))

/-- The bus word of four bytes, the lowest index in bits 7:0 (R60, R68). -/
def packBytes (b0 b1 b2 b3 : Byte) : Word := b3 ++ b2 ++ b1 ++ b0

/-- Byte `k` (0..3) of a bus word (R60, R68). -/
def byteOf (v : Word) (k : Nat) : Byte := v.extractLsb' (8 * k) 8

/-- Bytes `4m` to `4m+3` of a buffer as a bus word (R60, R62 to R65). -/
def packAt {n : Nat} (buf : Vector Byte n) (m : Nat) : Word :=
  packBytes (buf.getD (4 * m) 0) (buf.getD (4 * m + 1) 0) (buf.getD (4 * m + 2) 0)
    (buf.getD (4 * m + 3) 0)

/-- A buffer after a write of the bus word `v` to its bytes `4m` to `4m+3`; all four are stored (R60). -/
def storeAt {n : Nat} (buf : Vector Byte n) (m : Nat) (v : Word) : Vector Byte n :=
  Vector.ofFn fun j => if j.val / 4 = m then byteOf v (j.val % 4) else buf[j]

/-- A buffer whose first elements are replaced by `xs`, the rest unchanged (D32). -/
def overwrite {α : Type} {n : Nat} (buf : Vector α n) (xs : List α) : Vector α n :=
  Vector.ofFn fun j => xs.getD j.val buf[j]

/-- `B[0..k)` of a buffer (R17). -/
def firstOf {α : Type} {n : Nat} (buf : Vector α n) (k : Nat) : List α := buf.toList.take k

end Sys2Proof.Machine
end

