-- ==== Sys2Proof/Config.lean ====
section
/-! DEFINITION. What the implementation fixes (00_scope.md R12) and the values the spec leaves open.
An open value is an opaque constant without a body: a claim holds whatever it is. -/

namespace Sys2Proof.Config

/-- `POLY`, x⁸+x⁴+x³+x+1 as a 9-bit number (R12, R123). -/
def poly : BitVec 9 := 0x11B

/-- `ID_VALUE` (R12, R26). -/
def idValue : Word := 0x47460007

/-- `MN_LENS`, the entropy lengths of the mnemonic codec in bytes (R12). -/
def mnLens : List Nat := [16, 20, 24, 28, 32]

/-- `MN_WORDS`, the mnemonic lengths in words (R12). -/
def mnWords : List Nat := [12, 15, 18, 21, 24]

/-- `CK_LENS`, the checksum engine's lengths in bytes (R12). -/
def ckLens : List Nat := [4, 8, 12, 16, 20, 24, 28, 32]

/-- `SS_WORDS`, the share lengths in words (R12). -/
def ssWords : List Nat := [19, 22, 25, 28, 31]

/-- `STORE_SLOTS`, the share store's capacity (R12, R50). -/
def storeSlots : Nat := 256

/-- `SLOTS`, the number of point slots and of coefficient rows (R12). -/
def slots : Nat := 16

/-- `WORD_SLOTS`, the number of word slots (R12). -/
def wordSlots : Nat := 32

/-- `DIGIT_CHARS`, the size of the digit buffer (R12). -/
def digitChars : Nat := 128

/-- A value for `WordList` to be inhabited with; nothing in the model uses it as a ROM content. -/
def sampleWord (i : WordIndex) : List Byte :=
  [BitVec.ofNat 8 (0x61 + i.toNat / 676), BitVec.ofNat 8 (0x61 + i.toNat / 26 % 26),
    BitVec.ofNat 8 (0x61 + i.toNat % 26)]

theorem sampleWord_injective (i j : WordIndex) (h : sampleWord i = sampleWord j) : i = j := by
  simp only [sampleWord, List.cons.injEq, ← BitVec.toNat_inj, BitVec.toNat_ofNat] at h ⊢
  omega

theorem sampleWord_size (i : WordIndex) : 1 ≤ (sampleWord i).length ∧ (sampleWord i).length ≤ 8 := by
  simp [sampleWord]

theorem sampleWord_lower (i : WordIndex) : ∀ c ∈ sampleWord i, 0x61 ≤ c.toNat ∧ c.toNat ≤ 0x7A := by
  intro c hc
  have := i.isLt
  simp only [sampleWord, List.mem_cons, List.not_mem_nil, or_false] at hc
  obtain rfl | rfl | rfl := hc <;> simp only [BitVec.toNat_ofNat] <;> omega

/-- A word list with the three properties a model may assume of the ROM, and no other (10_state.md R51):
the 2048 entries are pairwise distinct, have 1 to 8 characters, and hold lower-case letters only. -/
structure WordList where
  /-- Entry `i` of the table, its characters in order. -/
  word : WordIndex → List Byte := sampleWord
  distinct : ∀ i j, word i = word j → i = j := by exact sampleWord_injective
  size : ∀ i, 1 ≤ (word i).length ∧ (word i).length ≤ 8 := by exact sampleWord_size
  lowerCase : ∀ i, ∀ c ∈ word i, 0x61 ≤ c.toNat ∧ c.toNat ≤ 0x7A := by exact sampleWord_lower
deriving Inhabited

/-- `WORDLIST`, OPEN (R12, R51, I7; log 6): some word list with the properties of R51. -/
opaque wordList : WordList

/-- The platform's choice of the window's place, as a page number (R57, I9; log 7). -/
opaque basePage : Nat

/-- `BASE`, OPEN (R12, R57): a multiple of 4096. -/
def base : Nat := 4096 * basePage

/-- The byte the random source gives for the `n`-th draw it was not supplied a byte for
(`RNG`, OPEN: R12, R52, I6; log 3). -/
opaque freeByte : Nat → Byte

/-- The value of the `n`-th bus read whose result the spec leaves unspecified (R75, I4, I5; log 4). -/
opaque freeRead : Nat → Word

end Sys2Proof.Config
end

