-- ==== Sys2Proof/Machine/State.lean ====
section
/-! DEFINITION. The architectural state, exactly the record of 10_state.md R54, with the model's own
environment record beside it (the pending inputs and what the host got back), and its reset value
(70_reset_and_hazards.md R205). -/

namespace Sys2Proof.Machine

/-- The unit's phase (R49): `busy w` while the accepted word `w` has not completed. -/
inductive Phase where
  | idle
  | busy (w : Word)
deriving DecidableEq, Repr

/-- The fields of SHF0, SHF1 and SHF2 (R39 to R41), also the metadata of a stored share (R50).
Thresholds and counts are held as counts. -/
structure ShareFields where
  id : BitVec 15
  ie : BitVec 5
  gi : BitVec 4
  gt : BitVec 5
  gc : BitVec 5
  mi : BitVec 4
  mt : BitVec 5
deriving DecidableEq, Repr

/-- One entry of the share store (R50). -/
structure StoreEntry where
  fields : ShareFields
  value : List Byte
deriving DecidableEq, Repr

/-- The width of a bus access; the bus accepts `word` only (R71). -/
inductive Width where
  | byte
  | half
  | word
  | burst
deriving DecidableEq, Repr

/-- A host bus access at a window offset (R56, R57). -/
inductive Access where
  | read (off : BitVec 12) (width : Width)
  | write (off : BitVec 12) (width : Width) (v : Word)
deriving DecidableEq, Repr

/-- One move of an agent (R13, R206): a host access, the unit's completing step, or the reset input,
which a host access may overlap. -/
inductive Event where
  | access (a : Access)
  | unit
  | reset (overlapped : Option Access)
deriving DecidableEq, Repr

/-- The MODEL's own fields, no part of the core (log 1, 3, 4, 5): the moves that come next, the values
host reads returned (newest first), the bytes the random source has ready, and how many free values
of each kind were taken. -/
structure Env where
  events : List Event
  replies : List Word
  draws : List Byte
  freshDraws : Nat
  freshReads : Nat
deriving DecidableEq, Repr

/-- The machine: R54's record, field for field, and the model's environment. -/
structure State where
  phase : Phase
  cmd : Word
  done : Bool
  err : Bool
  ovr : Bool
  errcode : BitVec 8
  errindex : BitVec 16
  errgroup : BitVec 8
  ie : Bool
  result : Word
  len : BitVec 6
  wcount : BitVec 6
  dcount : BitVec 8
  npts : BitVec 5
  cksum : BitVec 8
  wt : Vector Byte 8
  shf : ShareFields
  secret : Vector Byte 32
  words : Vector WordIndex 32
  digits : Vector Byte 128
  coef : Vector (Vector Byte 32) 15
  px : Vector Byte 16
  py : Vector (Vector Byte 32) 16
  store : List StoreEntry
  env : Env
deriving DecidableEq, Repr

/-- Why the machine would stop with a fault: never. The core has no trap and no bus error
(60_exceptions.md R195; 20_memory.md R84), so the type has no constructor (log 16). -/
inductive Fault : Type
deriving DecidableEq, Repr

/-- Why a step has no meaning. -/
inductive Refusal where
  /-- Raised by `exec` for a command without a meaning; none is left. Safe: the machine stops. -/
  | notModelled (mnemonic : String)
  /-- Raised by a bus access that is not an aligned 32-bit one, whose effect the spec leaves unspecified
  and which it says a model refuses (R71, R84, I3; log 9). Safe: the machine stops. -/
  | unacceptedAccess
deriving DecidableEq, Repr

/-- The errors of R188, by name. `indivisibleLength` is reserved for the host: the core never reports
it (R183). -/
inductive CommandError where
  | unknownWord
  | invalidLength
  | checksumMismatch
  | divideByZero
  | insufficientShares
  | duplicateShare
  | corruptShare
  | insufficientGroups
  | mismatchedShareSet
  | indivisibleLength
  | invalidDigitFormat
  | illegalCommand
  | badParameter
  | storeFull
deriving DecidableEq, Repr

/-- What `raise E(index, group)` records (R16, R189). -/
structure Report where
  error : CommandError
  index : Nat
  group : Nat
deriving DecidableEq, Repr

/-- The parameters a `BadParameter` can name (R97). -/
inductive Param where
  | f1
  | f2
  | f3
  | len
  | wcount
  | npts
  | gi
  | gt
  | gc
  | mt
deriving DecidableEq, Repr

/-- The share fields after reset (R205). -/
def ShareFields.zero : ShareFields := ⟨0, 0, 0, 0, 0, 0, 0⟩

/-- The environment before anything happened (DESIGN CHOICE, log 13). -/
def Env.quiet : Env := ⟨[], [], [], 0, 0⟩

/-- The state right after reset (R205). The environment is the model's own (log 13). -/
def State.reset : State where
  phase := .idle
  cmd := 0
  done := false
  err := false
  ovr := false
  errcode := 0
  errindex := 0
  errgroup := 0
  ie := false
  result := 0
  len := 0
  wcount := 0
  dcount := 0
  npts := 0
  cksum := 0
  wt := Vector.replicate 8 0
  shf := ShareFields.zero
  secret := Vector.replicate 32 0
  words := Vector.replicate 32 0
  digits := Vector.replicate 128 0
  coef := Vector.replicate 15 (Vector.replicate 32 0)
  px := Vector.replicate 16 0
  py := Vector.replicate 16 (Vector.replicate 32 0)
  store := []
  env := Env.quiet

end Sys2Proof.Machine
end

