-- ==== Sys2Proof/Machine/Flags.lean ====
section
/-! DEFINITION. The status flags: the layout of STATUS, its write-1-to-clear bits, the error codes and the
interrupt output. The core has no arithmetic flags (10_state.md R53). -/

namespace Sys2Proof.Machine

/-- STATUS.BUSY: 1 exactly when the phase is Busy (R28, R49). -/
def State.busy (s : State) : Bool :=
  match s.phase with
  | .idle => false
  | .busy _ => true

/-- STATUS as it reads: b0 BUSY, b1 DONE, b2 ERR, b3 OVR, b15:8 ERRCODE, the rest 0 (R28). -/
def State.statusWord (s : State) : Word :=
  0#16 ++ s.errcode ++ 0#4 ++ BitVec.ofBool s.ovr ++ BitVec.ofBool s.err ++ BitVec.ofBool s.done
    ++ BitVec.ofBool s.busy

/-- ERRINFO as it reads: b15:0 INDEX, b23:16 GROUP, the rest 0 (R29). -/
def State.errinfoWord (s : State) : Word := 0#8 ++ s.errgroup ++ s.errindex

/-- A write-1-to-clear bit after a write of `written` to it (10_state.md section 2). -/
def clearIfOne (old written : Bool) : Bool := old && !written

/-- The effect of an accepted write of `v` to STATUS: b1 to b3 are W1C, ERRCODE keeps its value and every
other bit ignores the write (R28). -/
def State.writeStatus (s : State) (v : Word) : State :=
  { s with
    done := clearIfOne s.done (v.getLsbD 1)
    err := clearIfOne s.err (v.getLsbD 2)
    ovr := clearIfOne s.ovr (v.getLsbD 3) }

/-- The code of an error in STATUS.ERRCODE (R188). -/
def CommandError.code : CommandError → BitVec 8
  | .unknownWord => 0x01
  | .invalidLength => 0x02
  | .checksumMismatch => 0x03
  | .divideByZero => 0x04
  | .insufficientShares => 0x05
  | .duplicateShare => 0x06
  | .corruptShare => 0x07
  | .insufficientGroups => 0x08
  | .mismatchedShareSet => 0x09
  | .indivisibleLength => 0x0A
  | .invalidDigitFormat => 0x0B
  | .illegalCommand => 0x80
  | .badParameter => 0x81
  | .storeFull => 0x82

/-- `IRQ = CTRL.IE AND STATUS.DONE` (R193). -/
def State.irq (s : State) : Bool := s.ie && s.done

end Sys2Proof.Machine
end

