-- ==== Sys2Proof/Machine/Operands.lean ====
section
/-! DEFINITION. How a command reads its operands: parameter ids and the `BadParameter` report
(30_encoding.md R97), the lengths (R98), and the buffers read as `SECRET[0..L)` and the like (R89). -/

namespace Sys2Proof.Machine

/-- What a command's rule ends in: the state with every write made, or the error raised (R95). -/
abbrev CmdResult := Except Report State

/-- The id of a parameter in ERRINFO.INDEX (R97). -/
def Param.number : Param → Nat
  | .f1 => 0x01
  | .f2 => 0x02
  | .f3 => 0x03
  | .len => 0x10
  | .wcount => 0x11
  | .npts => 0x13
  | .gi => 0x21
  | .gt => 0x22
  | .gc => 0x23
  | .mt => 0x25

/-- `raise E(index, group)` (R16). -/
def raise (e : CommandError) (index group : Nat) : CmdResult := .error ⟨e, index, group⟩

/-- `raise BadParameter(id, 0)` (R97). -/
def badParameter (p : Param) : CmdResult := raise .badParameter p.number 0

/-- `L`, the byte length in LEN (R18, R32). -/
def State.byteLen (s : State) : Nat := s.len.toNat

/-- `W`, the word count in WCOUNT (R18, R33). -/
def State.wordCount (s : State) : Nat := s.wcount.toNat

/-- `D`, the digit-character count in DCOUNT (R18, R34). -/
def State.digitCount (s : State) : Nat := s.dcount.toNat

/-- LEN is legal for the SH commands: 1..32 (R98). -/
abbrev lenLegal (l : Nat) : Prop := 1 ≤ l ∧ l ≤ 32

/-- `t` is a threshold of the Shamir unit: 1..16 (R138). -/
abbrev thresholdLegal (t : Nat) : Prop := 1 ≤ t ∧ t ≤ Config.slots

/-- `SECRET[0..L)` with `L` in LEN (R43). -/
def State.secretBytes (s : State) : List Byte := firstOf s.secret s.byteLen

/-- `WORDS[0..W)` with `W` in WCOUNT (R44). -/
def State.activeWords (s : State) : List WordIndex := firstOf s.words s.wordCount

/-- `DIGITS[0..D)` with `D` in DCOUNT (R45). -/
def State.digitChars (s : State) : List Byte := firstOf s.digits s.digitCount

/-- Coefficient row `k` (0..15): row 0 is SECRET (R46). -/
def State.coefRow (s : State) (k : Nat) : Vector Byte 32 :=
  if k = 0 then s.secret else s.coef.getD (k - 1) (Vector.replicate 32 0)

/-- Point slot `k`'s x-coordinate (R47). -/
def State.pointX (s : State) (k : Nat) : Byte := s.px.getD k 0

/-- Point slot `k`'s row of y-values (R48). -/
def State.pointRow (s : State) (k : Nat) : Vector Byte 32 :=
  s.py.getD k (Vector.replicate 32 0)

end Sys2Proof.Machine
end

