-- ==== Sys2Proof/Machine/Ops.lean ====
section
/-! DEFINITION. The shared operations: command issue and completion (the core's only form of an
exception, 60_exceptions.md R190, R195), random draws, the bus window read and written, and reset. -/

namespace Sys2Proof.Machine

/-! ### Issue and completion -/

/-- Issue of the word `w` while the phase is Idle (R94). -/
def State.issue (s : State) (w : Word) : State :=
  { s with
    cmd := w
    done := false
    err := false
    errcode := 0
    errindex := 0
    errgroup := 0
    phase := .busy w }

/-- Completion of a command whose writes are already in `s` (R190, success). -/
def State.succeed (s : State) : State := { s with done := true, phase := .idle }

/-- Completion of a command that raised `r`: the report is all that changes (R190, R191). -/
def State.report (s : State) (r : Report) : State :=
  { s with
    err := true
    errcode := r.error.code
    errindex := BitVec.ofNat 16 r.index
    errgroup := BitVec.ofNat 8 r.group
    done := true
    phase := .idle }

/-- `complete(outcome)` (R190): on an error every write of the command is discarded, since `s` is the
state before it. -/
def State.complete (s : State) : CmdResult → State
  | .ok t => t.succeed
  | .error r => s.report r

/-- A command's whole execution step: its rule's result, then completion (R95). -/
def finish (s : State) (r : CmdResult) : Host.Outcome State Fault Refusal := .next (s.complete r)

/-- Completion of an illegal word: `IllegalCommand` with INDEX = OP and GROUP = 0 (R91, R92). -/
def State.completeIllegal (s : State) (r : DecodeReject) : State :=
  s.complete (raise .illegalCommand r.op.toNat 0)

/-- The word the unit executes next, if it is busy: what stands in for an instruction fetch (R80). -/
def State.pendingWord (s : State) : Option Word :=
  match s.phase with
  | .idle => none
  | .busy w => some w

/-! ### The model's environment -/

/-- The state with another list of coming moves. -/
def State.withEvents (s : State) (es : List Event) : State :=
  { s with env := { s.env with events := es } }

/-- The state after a host read returned `v`. -/
def State.reply (s : State) (v : Word) : State :=
  { s with env := { s.env with replies := v :: s.env.replies } }

/-- The state after a host read returned an unspecified value: a fresh free value (R75, I4). -/
def State.replyFree (s : State) : State :=
  { s with
    env :=
      { s.env with
        replies := Config.freeRead s.env.freshReads :: s.env.replies
        freshReads := s.env.freshReads + 1 } }

/-- `draw()` (R16, R52): the next byte the random source has ready, a free byte where it has none. -/
def draw (e : Env) : Byte × Env :=
  match e.draws with
  | b :: rest => (b, { e with draws := rest })
  | [] => (Config.freeByte e.freshDraws, { e with freshDraws := e.freshDraws + 1 })

/-- `n` draws in order. -/
def drawMany : Nat → Env → List Byte × Env
  | 0, e => ([], e)
  | n + 1, e =>
    let first := draw e
    let rest := drawMany n first.2
    (first.1 :: rest.1, rest.2)

/-! ### The bus window -/

/-- SHF0 as it reads (R39). -/
def ShareFields.word0 (f : ShareFields) : Word := 0#11 ++ f.ie ++ 0#1 ++ f.id

/-- SHF1 as it reads (R40). -/
def ShareFields.word1 (f : ShareFields) : Word := 0#11 ++ f.gc ++ 0#3 ++ f.gt ++ 0#4 ++ f.gi

/-- SHF2 as it reads (R41). -/
def ShareFields.word2 (f : ShareFields) : Word := 0#19 ++ f.mt ++ 0#4 ++ f.mi

/-- The register at offset `off` (below 0x100) while idle; a reserved offset reads 0
(10_state.md section 2, R42). -/
def State.readRegister (s : State) (off : Nat) : Word :=
  match off with
  | 0x000 => Config.idValue
  | 0x004 => s.cmd
  | 0x008 => s.statusWord
  | 0x00C => s.errinfoWord
  | 0x010 => (BitVec.ofBool s.ie).setWidth 32
  | 0x014 => s.result
  | 0x018 => s.len.setWidth 32
  | 0x01C => s.wcount.setWidth 32
  | 0x020 => s.dcount.setWidth 32
  | 0x024 => s.npts.setWidth 32
  | 0x028 => s.cksum.setWidth 32
  | 0x02C => BitVec.ofNat 32 s.store.length
  | 0x030 => packAt s.wt 0
  | 0x034 => packAt s.wt 1
  | 0x040 => s.shf.word0
  | 0x044 => s.shf.word1
  | 0x048 => s.shf.word2
  | _ => 0

/-- The content of the bus word at the offset `off`, a multiple of 4 (R58 to R66). -/
def State.windowWord (s : State) (off : Nat) : Word :=
  if off < 0x100 then s.readRegister off
  else if off < 0x120 then packAt s.secret ((off - 0x100) / 4)
  else if off < 0x200 then 0
  else if off < 0x280 then (s.words.getD ((off - 0x200) / 4) 0).setWidth 32
  else if off < 0x300 then 0
  else if off < 0x380 then packAt s.digits ((off - 0x300) / 4)
  else if off < 0x400 then 0
  else if off < 0x600 then packAt (s.coefRow ((off - 0x400) / 32)) ((off - 0x400) % 32 / 4)
  else if off < 0x610 then packAt s.px ((off - 0x600) / 4)
  else if off < 0x800 then 0
  else if off < 0xA00 then packAt (s.pointRow ((off - 0x800) / 32)) ((off - 0x800) % 32 / 4)
  else 0

/-- A write of `v` to the register at offset `off` while idle: RO and reserved offsets ignore it, RW
registers take the bits of their fields, STATUS is W1C and CMD issues (10_state.md section 2). -/
def State.writeRegister (s : State) (off : Nat) (v : Word) : State :=
  match off with
  | 0x004 => s.issue v
  | 0x008 => s.writeStatus v
  | 0x010 => { s with ie := v.getLsbD 0 }
  | 0x018 => { s with len := v.extractLsb' 0 6 }
  | 0x01C => { s with wcount := v.extractLsb' 0 6 }
  | 0x020 => { s with dcount := v.extractLsb' 0 8 }
  | 0x024 => { s with npts := v.extractLsb' 0 5 }
  | 0x030 => { s with wt := storeAt s.wt 0 v }
  | 0x034 => { s with wt := storeAt s.wt 1 v }
  | 0x040 => { s with shf := { s.shf with id := v.extractLsb' 0 15, ie := v.extractLsb' 16 5 } }
  | 0x044 =>
    { s with
      shf := { s.shf with gi := v.extractLsb' 0 4, gt := v.extractLsb' 8 5, gc := v.extractLsb' 16 5 } }
  | 0x048 => { s with shf := { s.shf with mi := v.extractLsb' 0 4, mt := v.extractLsb' 8 5 } }
  | _ => s

/-- A write of a bus word into coefficient row `k` (0..15): row 0 is SECRET (R63). -/
def State.writeCoef (s : State) (k m : Nat) (v : Word) : State :=
  if k = 0 then { s with secret := storeAt s.secret m v }
  else
    { s with
      coef := Vector.ofFn fun r => if r.val + 1 = k then storeAt s.coef[r] m v else s.coef[r] }

/-- A write of a bus word into point slot `k`'s y-values (R65). -/
def State.writePoint (s : State) (k m : Nat) (v : Word) : State :=
  { s with py := Vector.ofFn fun r => if r.val = k then storeAt s.py[r] m v else s.py[r] }

/-- An accepted write of `v` at the offset `off`, a multiple of 4, while idle (R58 to R66). -/
def State.windowWrite (s : State) (off : Nat) (v : Word) : State :=
  if off < 0x100 then s.writeRegister off v
  else if off < 0x120 then { s with secret := storeAt s.secret ((off - 0x100) / 4) v }
  else if off < 0x200 then s
  else if off < 0x280 then
    { s with words := s.words.setIfInBounds ((off - 0x200) / 4) (v.extractLsb' 0 11) }
  else if off < 0x300 then s
  else if off < 0x380 then { s with digits := storeAt s.digits ((off - 0x300) / 4) v }
  else if off < 0x400 then s
  else if off < 0x600 then s.writeCoef ((off - 0x400) / 32) ((off - 0x400) % 32 / 4) v
  else if off < 0x610 then { s with px := storeAt s.px ((off - 0x600) / 4) v }
  else if off < 0x800 then s
  else if off < 0xA00 then s.writePoint ((off - 0x800) / 32) ((off - 0x800) % 32 / 4) v
  else s

/-- A host write of an accepted access: while busy it is dropped and sets OVR (R74). -/
def State.hostWrite (s : State) (off : Nat) (v : Word) : State :=
  match s.phase with
  | .idle => s.windowWrite off v
  | .busy _ => { s with ovr := true }

/-- A location a read of which is defined while busy: ID, CMD and STATUS (R75). -/
abbrev readableWhileBusy (off : Nat) : Prop := off = 0x000 ∨ off = 0x004 ∨ off = 0x008

/-- A host read of an accepted access; while busy, any location but ID, CMD and STATUS returns a fresh
free value. The read has no side effect on the core (R73, R75). -/
def State.hostRead (s : State) (off : Nat) : State :=
  match s.phase with
  | .idle => s.reply (s.windowWord off)
  | .busy _ => if readableWhileBusy off then s.reply (s.windowWord off) else s.replyFree

/-- The bus accepts the access: 32 bits wide at a multiple of 4 (R71). -/
def Access.accepted : Access → Bool
  | .read off width => width == .word && off.toNat % 4 == 0
  | .write off width _ => width == .word && off.toNat % 4 == 0

/-- An accepted access's effect. -/
def State.serve (s : State) : Access → State
  | .read off _ => s.hostRead off.toNat
  | .write off _ v => s.hostWrite off.toNat v

/-- A host access (R71, R84): one the bus does not accept is refused. -/
def busAccess (a : Access) (s : State) : Host.Outcome State Fault Refusal :=
  if a.accepted then .next (s.serve a) else .refused .unacceptedAccess

/-- The window offset of a host address, if it lies in the window (R57). -/
def windowOffset (addr : Nat) : Option (BitVec 12) :=
  if Config.base ≤ addr ∧ addr < Config.base + 4096 then some (BitVec.ofNat 12 (addr - Config.base))
  else none

/-! ### Reset -/

/-- The reset values applied at one instant, whatever the phase; the outside world's inputs are not the
core's and stay (R205, R206). -/
def State.applyReset (s : State) : State := { State.reset with env := s.env }

/-- The reset input, which an access may overlap: afterwards the state is that of R205, and an
overlapping read returns any value (R206, I5; log 10). -/
def State.resetInput (s : State) : Option Access → State
  | none => s.applyReset
  | some (.write _ _ _) => s.applyReset
  | some (.read _ _) => s.applyReset.replyFree

end Sys2Proof.Machine
end

