-- ==== Sys2Proof/Machine/Sha256.lean ====
section
/-! DEFINITION. SHA-256, the hash of FIPS 180-4 (41_checksum.md R110). The spec names the standard and gives
two digests; the algorithm is PRESUMED from the standard (log 8). Its constants are computed from what the
standard says they are: leading fractional bits of roots of the first primes. -/

namespace Sys2Proof.Machine.Sha256

/-- The 64 primes below 312: no prime factor of at most 17 but themselves, and 19² is above 312. -/
def primes : List Nat :=
  (List.range 312).filter fun p => 2 ≤ p && [2, 3, 5, 7, 11, 13, 17].all fun q => p % q != 0 || p == q

/-- The largest number above `r` by less than `2^bits` whose `k`-th power is at most `n`, or `r`. -/
def rootFrom (k n : Nat) : Nat → Nat → Nat
  | 0, r => r
  | bits + 1, r => rootFrom k n bits (if (r + 2 ^ bits) ^ k ≤ n then r + 2 ^ bits else r)

/-- The first 32 bits of the fractional part of the `k`-th root of `p`, a number below 2^9 and `k ≥ 2`. -/
def rootFraction (k p : Nat) : Word := BitVec.ofNat 32 (rootFrom k (p * 2 ^ (32 * k)) 37 0)

/-- The round constants: from the cube roots of the first 64 primes. -/
def roundConstants : List Word := primes.map (rootFraction 3)

/-- The eight chaining words. -/
structure Regs where
  a : Word
  b : Word
  c : Word
  d : Word
  e : Word
  f : Word
  g : Word
  h : Word
deriving DecidableEq, Repr

/-- Eight words as the chaining words; missing ones are 0. -/
def Regs.ofList (ws : List Word) : Regs :=
  ⟨ws.getD 0 0, ws.getD 1 0, ws.getD 2 0, ws.getD 3 0, ws.getD 4 0, ws.getD 5 0, ws.getD 6 0, ws.getD 7 0⟩

/-- The initial chaining value: from the square roots of the first eight primes. -/
def initial : Regs := Regs.ofList ((primes.take 8).map (rootFraction 2))

/-- `Ch`. -/
def choose (x y z : Word) : Word := (x &&& y) ^^^ (~~~x &&& z)

/-- `Maj`. -/
def majority (x y z : Word) : Word := (x &&& y) ^^^ (x &&& z) ^^^ (y &&& z)

/-- `Σ0`. -/
def bigSigma0 (x : Word) : Word := x.rotateRight 2 ^^^ x.rotateRight 13 ^^^ x.rotateRight 22

/-- `Σ1`. -/
def bigSigma1 (x : Word) : Word := x.rotateRight 6 ^^^ x.rotateRight 11 ^^^ x.rotateRight 25

/-- `σ0`. -/
def smallSigma0 (x : Word) : Word := x.rotateRight 7 ^^^ x.rotateRight 18 ^^^ (x >>> 3)

/-- `σ1`. -/
def smallSigma1 (x : Word) : Word := x.rotateRight 17 ^^^ x.rotateRight 19 ^^^ (x >>> 10)

/-- The message schedule extended by `n` words. -/
def schedule : Nat → List Word → List Word
  | 0, ws => ws
  | n + 1, ws =>
    let t := ws.length
    schedule n
      (ws ++ [smallSigma1 (ws.getD (t - 2) 0) + ws.getD (t - 7) 0 + smallSigma0 (ws.getD (t - 15) 0)
        + ws.getD (t - 16) 0])

/-- One round with its constant and schedule word. -/
def round (r : Regs) (kw : Word × Word) : Regs :=
  let t1 := r.h + bigSigma1 r.e + choose r.e r.f r.g + kw.1 + kw.2
  let t2 := bigSigma0 r.a + majority r.a r.b r.c
  ⟨t1 + t2, r.a, r.b, r.c, r.d + t1, r.e, r.f, r.g⟩

/-- One block of 16 words. -/
def block (r : Regs) (m : List Word) : Regs :=
  let o := (roundConstants.zip (schedule 48 m)).foldl round r
  ⟨r.a + o.a, r.b + o.b, r.c + o.c, r.d + o.d, r.e + o.e, r.f + o.f, r.g + o.g, r.h + o.h⟩

/-- A word's bytes, most significant first. -/
def wordBytes (w : Word) : List Byte := [byteOf w 3, byteOf w 2, byteOf w 1, byteOf w 0]

/-- Bytes as big-endian words. -/
def bytesWords : List Byte → List Word
  | a :: b :: c :: d :: rest => packBytes d c b a :: bytesWords rest
  | _ => []

/-- The padded message: 0x80, zeros to 56 modulo 64 bytes, then the bit length in 64 bits. -/
def padded (m : List Byte) : List Byte :=
  m ++ [0x80] ++ List.replicate ((119 - m.length % 64) % 64) 0
    ++ (List.range 8).map fun i => BitVec.ofNat 8 (8 * m.length / 256 ^ (7 - i))

/-- `n` blocks in order. -/
def blocks : Nat → List Word → Regs → Regs
  | 0, _, r => r
  | n + 1, ws, r => blocks n (ws.drop 16) (block r (ws.take 16))

end Sys2Proof.Machine.Sha256

/-- `sha256(B)`, the 32-byte digest (R16, R110). -/
def Sys2Proof.Machine.sha256 (m : List Sys2Proof.Byte) : List Sys2Proof.Byte :=
  let ws := Sys2Proof.Machine.Sha256.bytesWords (Sys2Proof.Machine.Sha256.padded m)
  let r := Sys2Proof.Machine.Sha256.blocks (ws.length / 16) ws Sys2Proof.Machine.Sha256.initial
  [r.a, r.b, r.c, r.d, r.e, r.f, r.g, r.h].flatMap Sys2Proof.Machine.Sha256.wordBytes
end

