-- ==== Sys2Proof/Machine/Checksum.lean ====
section
/-! DEFINITION. The checksum engine, a SHA-256 slice selector: CK.COMPUTE and CK.VERIFY (41_checksum.md). -/

namespace Sys2Proof.Machine

/-- `cslen(L) = L/4` bits (R109). -/
def cslen (l : Nat) : Nat := l / 4

/-- `cs(E)`: the first `L/4` bits of the digest as a number (R109). -/
def cs (e : List Byte) : Nat := num (slice (bytesBits (sha256 e)) 0 (cslen e.length))

/-- CK.COMPUTE (R111). -/
def execCkCompute (s : State) : Host.Outcome State Fault Refusal :=
  finish s <|
    if s.byteLen ∉ Config.ckLens then badParameter .len
    else .ok { s with cksum := BitVec.ofNat 8 (cs s.secretBytes) }

/-- CK.VERIFY (R112): a mismatch is the answer 0, not an error. -/
def execCkVerify (c : Byte) (s : State) : Host.Outcome State Fault Refusal :=
  finish s <|
    if s.byteLen ∉ Config.ckLens then badParameter .len
    else .ok { s with result := if c.toNat = cs s.secretBytes then 1 else 0 }

end Sys2Proof.Machine
end

