-- ==== Sys2Proof/Machine/Control.lean ====
section
/-! DEFINITION. The control commands NOP and ZEROIZE (48_control.md). -/

namespace Sys2Proof.Machine

/-- NOP (R185): nothing is written; it completes like every command. -/
def execNop (s : State) : Host.Outcome State Fault Refusal := finish s (.ok s)

/-- The reset values everywhere but in CTRL.IE, CMD and STATUS.OVR (R186); the phase is left to the
completion, and the environment is not the core's. -/
def State.zeroized (s : State) : State :=
  { State.reset with ie := s.ie, cmd := s.cmd, ovr := s.ovr, env := s.env }

/-- ZEROIZE (R186). -/
def execZeroize (s : State) : Host.Outcome State Fault Refusal := finish s (.ok s.zeroized)

end Sys2Proof.Machine
end

