-- ==== Sys2Proof/Machine/Digit.lean ====
section
/-! DEFINITION. The digit codec, DG.TODIGITS and DG.FROMDIGITS (46_digit.md). -/

namespace Sys2Proof.Machine

/-- The ASCII character of a decimal digit (R169). -/
def digitChar (d : Nat) : Byte := BitVec.ofNat 8 (0x30 + d)

/-- `dig4(i)`: the four characters of a word index (R169). -/
def dig4 (i : WordIndex) : List Byte :=
  [digitChar (i.toNat / 1000 % 10), digitChar (i.toNat / 100 % 10), digitChar (i.toNat / 10 % 10),
    digitChar (i.toNat % 10)]

/-- DG.TODIGITS (R170). -/
def execDgTodigits (s : State) : Host.Outcome State Fault Refusal :=
  finish s <|
    if Config.wordSlots < s.wordCount then badParameter .wcount
    else
      .ok
        { s with
          digits := overwrite s.digits (s.activeWords.flatMap dig4)
          dcount := BitVec.ofNat 8 (4 * s.wordCount) }

/-- The byte is an ASCII decimal digit, 0x30 to 0x39 (R171). -/
def isDigit (c : Byte) : Bool := 0x30 ≤ c.toNat && c.toNat ≤ 0x39

/-- The value of an ASCII digit (R171). -/
def digitValue (c : Byte) : Nat := c.toNat - 0x30

/-- The number four digit characters denote (R171). -/
def digitsValue (a b c d : Byte) : Nat :=
  1000 * digitValue a + 100 * digitValue b + 10 * digitValue c + digitValue d

/-- The word indices of a digit string whose first character stands at word position `i` (R171). -/
def parseDigits (i : Nat) : List Byte → Except Report (List WordIndex)
  | a :: b :: c :: d :: rest =>
    if ¬ (isDigit a ∧ isDigit b ∧ isDigit c ∧ isDigit d) then .error ⟨.invalidDigitFormat, i, 2⟩
    else if 2047 < digitsValue a b c d then .error ⟨.invalidDigitFormat, i, 3⟩
    else
      match parseDigits (i + 1) rest with
      | .error r => .error r
      | .ok ws => .ok (BitVec.ofNat 11 (digitsValue a b c d) :: ws)
  | _ => .ok []

/-- DG.FROMDIGITS (R171). -/
def execDgFromdigits (s : State) : Host.Outcome State Fault Refusal :=
  finish s <|
    if s.digitCount % 4 ≠ 0 ∨ Config.digitChars < s.digitCount then
      raise .invalidDigitFormat s.digitCount 1
    else
      match parseDigits 0 s.digitChars with
      | .error r => .error r
      | .ok ws =>
        .ok { s with words := overwrite s.words ws, wcount := BitVec.ofNat 6 (s.digitCount / 4) }

end Sys2Proof.Machine
end

