-- ==== Sys2Proof/Machine/Gf256.lean ====
section
/-! DEFINITION. The field GF(2⁸) and the commands GF.ADD, GF.MUL and GF.INV (43_gf256.md). -/

namespace Sys2Proof.Machine

/-- `gadd(a, b)`: bitwise XOR (R124). -/
def gadd (a b : Byte) : Byte := a ^^^ b

/-- One pass of the loop of R125 over `a`: a shift with a 9-bit intermediate, reduced by `POLY`. -/
def gdouble (a : Byte) : Byte :=
  let shifted : BitVec 9 := a.setWidth 9 <<< 1
  (if shifted.getLsbD 8 then shifted ^^^ Config.poly else shifted).setWidth 8

/-- The loop of R125 over the bits `i` of `b` in `is`, with `r` the sum so far. -/
def gmulLoop (b : Byte) : List Nat → Byte → Byte → Byte
  | [], _, r => r
  | i :: is, a, r => gmulLoop b is (gdouble a) (if b.getLsbD i then r ^^^ a else r)

/-- `gmul(a, b)`: the product modulo `POLY` (R125). -/
def gmul (a b : Byte) : Byte := gmulLoop b (List.range 8) a 0

/-- `a^n` under `gmul`. -/
def gpow (a : Byte) : Nat → Byte
  | 0 => 1
  | n + 1 => gmul (gpow a n) a

/-- The product of `a^2, a^4, …` (`n` factors, each the square of the one before), times `r`. -/
def gsquares : Nat → Byte → Byte → Byte
  | 0, _, r => r
  | n + 1, a, r => gsquares n (gmul a a) (gmul r (gmul a a))

/-- `ginv(a)` for `a ≠ 0`: `a^254`, that is `a^2 · a^4 · … · a^128` (R126, R135). -/
def ginv (a : Byte) : Byte := gsquares 7 a 1

/-- The sum under `gadd` of a list. -/
def gsum (xs : List Byte) : Byte := xs.foldl gadd 0

/-- The product under `gmul` of a list. -/
def gprod (xs : List Byte) : Byte := xs.foldl gmul 1

/-- GF.ADD (R128). -/
def execGfAdd (a b : Byte) (s : State) : Host.Outcome State Fault Refusal :=
  finish s (.ok { s with result := (gadd a b).setWidth 32 })

/-- GF.MUL (R129). -/
def execGfMul (a b : Byte) (s : State) : Host.Outcome State Fault Refusal :=
  finish s (.ok { s with result := (gmul a b).setWidth 32 })

/-- GF.INV (R130). -/
def execGfInv (a : Byte) (s : State) : Host.Outcome State Fault Refusal :=
  finish s <|
    if a = 0 then raise .divideByZero 0 0
    else .ok { s with result := (ginv a).setWidth 32 }

end Sys2Proof.Machine
end

