-- ==== Sys2Proof/Machine/Mnemonic.lean ====
section
/-! DEFINITION. The mnemonic encoder and decoder, MN.ENCODE and MN.DECODE (42_mnemonic.md). -/

namespace Sys2Proof.Machine

/-- The mnemonic's bit string: the entropy, then its checksum bits (R115). -/
def mnemonicBits (e : List Byte) : BitString := bytesBits e ++ bitsOf (cslen e.length) (cs e)

/-- The mnemonic of an entropy of `L` bytes: `3L/4` word indices (R115). -/
def mnemonicWords (e : List Byte) : List WordIndex := sliceWords (mnemonicBits e) (3 * e.length / 4)

/-- The entropy bytes of a word sequence (R118). -/
def mnemonicEntropy (ws : List WordIndex) : List Byte := sliceBytes (joinWords ws) (4 * ws.length / 3)

/-- The checksum bits of a word sequence, the last `L/4`, as a number (R118). -/
def mnemonicCheck (ws : List WordIndex) : Nat :=
  num (slice (joinWords ws) (8 * (4 * ws.length / 3)) (11 * ws.length))

/-- MN.ENCODE (R117). -/
def execMnEncode (s : State) : Host.Outcome State Fault Refusal :=
  finish s <|
    if s.byteLen ∉ Config.mnLens then badParameter .len
    else
      .ok
        { s with
          words := overwrite s.words (mnemonicWords s.secretBytes)
          wcount := BitVec.ofNat 6 (3 * s.byteLen / 4) }

/-- MN.DECODE (R118). -/
def execMnDecode (s : State) : Host.Outcome State Fault Refusal :=
  finish s <|
    if s.wordCount ∉ Config.mnWords then raise .invalidLength s.wordCount 0
    else if mnemonicCheck s.activeWords ≠ cs (mnemonicEntropy s.activeWords) then
      raise .checksumMismatch (s.wordCount - 1) 0
    else
      .ok
        { s with
          secret := overwrite s.secret (mnemonicEntropy s.activeWords)
          len := BitVec.ofNat 6 (4 * s.wordCount / 3) }

end Sys2Proof.Machine
end

