-- ==== Sys2Proof/Machine/Shamir.lean ====
section
/-! DEFINITION. The Shamir evaluator and the Lagrange interpolator, the SH commands (44_shamir.md). -/

namespace Sys2Proof.Machine

/-! ### Evaluation -/

/-- Coefficient `k` of the byte-`j` polynomial (R138): `COEF[k][j]`, row 0 being SECRET. -/
def State.coefByte (s : State) (k j : Nat) : Byte := (s.coefRow k).getD j 0

/-- `peval(t, x, j)`, by Horner's rule from the highest coefficient down (R139). -/
def State.peval (s : State) (t : Nat) (x : Byte) (j : Nat) : Byte :=
  (List.range t).foldr (fun k y => gadd (gmul y x) (s.coefByte k j)) 0

/-- The `l` y-bytes of the share at `x` (R140). -/
def State.evalBytes (s : State) (t : Nat) (x : Byte) (l : Nat) : List Byte :=
  (List.range l).map fun j => s.peval t x j

/-- SH.EVAL (R140). -/
def execShEval (t x slot : Byte) (s : State) : Host.Outcome State Fault Refusal :=
  finish s <|
    if ¬ thresholdLegal t.toNat then badParameter .f1
    else if x = 0 then badParameter .f2
    else if 15 < slot.toNat then badParameter .f3
    else if ¬ lenLegal s.byteLen then badParameter .len
    else
      .ok
        { s with
          py := s.py.setIfInBounds slot.toNat
            (overwrite (s.pointRow slot.toNat) (s.evalBytes t.toNat x s.byteLen))
          px := s.px.setIfInBounds slot.toNat x }

/-! ### Random coefficients -/

/-- Rows 1 to t−1 with their first `l` bytes drawn, ascending in `k`, then in `j` (R141). -/
def State.drawCoef (s : State) (t l : Nat) : State :=
  let drawn := drawMany ((t - 1) * l) s.env
  { s with
    coef := Vector.ofFn fun r =>
      if r.val + 1 < t then overwrite s.coef[r] ((drawn.1.drop (r.val * l)).take l) else s.coef[r]
    env := drawn.2 }

/-- SH.GENCOEF (R141). -/
def execShGencoef (t : Byte) (s : State) : Host.Outcome State Fault Refusal :=
  finish s <|
    if ¬ thresholdLegal t.toNat then badParameter .f1
    else if ¬ lenLegal s.byteLen then badParameter .len
    else .ok (s.drawCoef t.toNat s.byteLen)

/-- Point slots 0 to n−1 filled with the shares at x = 1 to n, and NPTS (R142). -/
def State.fillPoints (s : State) (t n l : Nat) : State :=
  { s with
    px := Vector.ofFn fun i => if i.val < n then BitVec.ofNat 8 (i.val + 1) else s.px[i]
    py := Vector.ofFn fun i =>
      if i.val < n then overwrite s.py[i] (s.evalBytes t (BitVec.ofNat 8 (i.val + 1)) l) else s.py[i]
    npts := BitVec.ofNat 5 n }

/-- SH.SPLIT (R142). -/
def execShSplit (t n : Byte) (s : State) : Host.Outcome State Fault Refusal :=
  finish s <|
    if ¬ thresholdLegal t.toNat then badParameter .f1
    else if n.toNat < 1 ∨ Config.slots < n.toNat ∨ n.toNat < t.toNat then badParameter .f2
    else if ¬ lenLegal s.byteLen then badParameter .len
    else .ok ((s.drawCoef t.toNat s.byteLen).fillPoints t.toNat n.toNat s.byteLen)

/-! ### Moves between SECRET and the point slots -/

/-- SH.LOADPT (R143). -/
def execShLoadpt (slot : Byte) (s : State) : Host.Outcome State Fault Refusal :=
  finish s <|
    if 15 < slot.toNat then badParameter .f3
    else if ¬ lenLegal s.byteLen then badParameter .len
    else .ok { s with secret := overwrite s.secret (firstOf (s.pointRow slot.toNat) s.byteLen) }

/-- SH.STOREPT (R144). -/
def execShStorept (x slot : Byte) (s : State) : Host.Outcome State Fault Refusal :=
  finish s <|
    if 15 < slot.toNat then badParameter .f3
    else if ¬ lenLegal s.byteLen then badParameter .len
    else
      .ok
        { s with
          px := s.px.setIfInBounds slot.toNat x
          py := s.py.setIfInBounds slot.toNat (overwrite (s.pointRow slot.toNat) s.secretBytes) }

/-! ### Interpolation -/

/-- A point read from a slot: the slot it stands in, its x-coordinate and its y-bytes. -/
structure Point where
  slot : Nat
  x : Byte
  y : List Byte
deriving DecidableEq, Repr

/-- `lbasis(X, i)`, the Lagrange basis at 0 (R145). -/
def lbasis (xs : List Byte) (i : Nat) : Byte :=
  gprod (((List.range xs.length).filter (· ≠ i)).map fun m =>
    gmul (xs.getD m 0) (ginv (gadd (xs.getD m 0) (xs.getD i 0))))

/-- Byte `j` of `interp0(P)` (R146). -/
def interpByte (ps : List Point) (j : Nat) : Byte :=
  gsum (ps.zipIdx.map fun p => gmul (p.1.y.getD j 0) (lbasis (ps.map Point.x) p.2))

/-- `interp0(P)` for y-values of `l` bytes (R146). -/
def interp0 (ps : List Point) (l : Nat) : List Byte := (List.range l).map (interpByte ps)

/-- The points with pairwise distinct x, in slot order, of `seen ++ ps`; an identical duplicate is
skipped, and the slot of the first one whose y differs is the error (R147, R162). -/
def distinctPoints (seen : List Point) : List Point → Except Nat (List Point)
  | [] => .ok seen
  | p :: ps =>
    match seen.find? (fun q => q.x == p.x) with
    | some q => if q.y = p.y then distinctPoints seen ps else .error p.slot
    | none => distinctPoints (seen ++ [p]) ps

/-- The points of slots 0 to n−1 with y-values of `l` bytes (R147). -/
def State.points (s : State) (n l : Nat) : List Point :=
  (List.range n).map fun k => ⟨k, s.pointX k, firstOf (s.pointRow k) l⟩

/-- The rest of SH.INTERP after its parameter checks (R147). -/
def State.interpolate (s : State) (t : Nat) : CmdResult :=
  match distinctPoints [] (s.points s.npts.toNat s.byteLen) with
  | .error slot => raise .duplicateShare slot 0
  | .ok ps =>
    if ps.length < t then raise .insufficientShares ps.length 0
    else .ok { s with secret := overwrite s.secret (interp0 (ps.take t) s.byteLen) }

/-- SH.INTERP (R147). -/
def execShInterp (t : Byte) (s : State) : Host.Outcome State Fault Refusal :=
  finish s <|
    if ¬ thresholdLegal t.toNat then badParameter .f1
    else if Config.slots < s.npts.toNat then badParameter .npts
    else if ¬ lenLegal s.byteLen then badParameter .len
    else s.interpolate t.toNat

end Sys2Proof.Machine
end

