-- ==== Sys2Proof/Machine/ShareCodec.lean ====
section
/-! DEFINITION. The group and share codec, the SS commands (45_share_codec.md). -/

namespace Sys2Proof.Machine

/-! ### The share's bit string -/

/-- One bit of `crc32` (R154). -/
def crcStep (c : Word) (d : Bool) : Word :=
  if (c.getLsbD 31 ^^ d) then (c <<< 1) ^^^ 0x04C11DB7 else c <<< 1

/-- `crc32(s)` (R154). -/
def crc32 (s : BitString) : Word := s.foldl crcStep 0xFFFFFFFF ^^^ 0xFFFFFFFF

/-- `HDR`: 44 bits (R153). -/
def shareHeader (f : ShareFields) : BitString :=
  bitsOf 15 f.id.toNat ++ bitsOf 5 f.ie.toNat ++ bitsOf 4 f.gi.toNat ++ bitsOf 4 (f.gt.toNat - 1)
    ++ bitsOf 4 (f.gc.toNat - 1) ++ bitsOf 4 f.mi.toNat ++ bitsOf 4 (f.mt.toNat - 1) ++ zeros 4

/-- `MSG`: header, pad and value (R153). -/
def shareMessage (f : ShareFields) (value : List Byte) : BitString :=
  shareHeader f ++ zeros (value.length / 4) ++ bytesBits value

/-- `SB`: the message, the check bit and the CRC (R153). -/
def shareBits (f : ShareFields) (value : List Byte) : BitString :=
  let msg := shareMessage f value
  msg ++ zeros 1 ++ bitsOf 32 (crc32 msg).toNat

/-- The number of words of a share of value length `l` (R155). -/
def shareWordCount (l : Nat) : Nat := 7 + 3 * l / 4

/-- The words of a share (R153). -/
def shareWords (f : ShareFields) (value : List Byte) : List WordIndex :=
  sliceWords (shareBits f value) (shareWordCount value.length)

/-- SS.ENCODE (R157). -/
def execSsEncode (s : State) : Host.Outcome State Fault Refusal :=
  finish s <|
    if s.byteLen ∉ Config.mnLens then badParameter .len
    else if s.shf.gc.toNat < 1 ∨ 16 < s.shf.gc.toNat then badParameter .gc
    else if s.shf.gt.toNat < 1 ∨ 16 < s.shf.gt.toNat then badParameter .gt
    else if s.shf.mt.toNat < 1 ∨ 16 < s.shf.mt.toNat then badParameter .mt
    else if s.shf.gc.toNat ≤ s.shf.gi.toNat then badParameter .gi
    else if s.shf.gc.toNat < s.shf.gt.toNat then badParameter .gt
    else
      .ok
        { s with
          words := overwrite s.words (shareWords s.shf s.secretBytes)
          wcount := BitVec.ofNat 6 (shareWordCount s.byteLen) }

/-! ### Decoding a share -/

/-- The length of `MSG` for a value of `l` bytes, by the formula of R153, R155 and R158. R155's table has other
bit counts in its rows for 24, 28 and 32 bytes; the formula is followed (DEDUCED, log 23). -/
def shareMessageLen (l : Nat) : Nat := 44 + l / 4 + 8 * l

/-- The header fields of a message, thresholds and counts as counts (R158). -/
def messageFields (msg : BitString) : ShareFields where
  id := BitVec.ofNat 15 (num (slice msg 0 15))
  ie := BitVec.ofNat 5 (num (slice msg 15 20))
  gi := BitVec.ofNat 4 (num (slice msg 20 24))
  gt := BitVec.ofNat 5 (num (slice msg 24 28) + 1)
  gc := BitVec.ofNat 5 (num (slice msg 28 32) + 1)
  mi := BitVec.ofNat 4 (num (slice msg 32 36))
  mt := BitVec.ofNat 5 (num (slice msg 36 40) + 1)

/-- The value bytes of a message, `l` of them (R158). -/
def messageValue (msg : BitString) (l : Nat) : List Byte := sliceBytes (msg.drop (44 + l / 4)) l

/-- A share's bit string decoded and checked in the order of R158, for a value of `l` bytes; `k` is the
store slot a push would use. -/
def decodeShare (sb : BitString) (l k : Nat) : Except Report StoreEntry :=
  let n := shareMessageLen l
  let msg := slice sb 0 n
  let fields := messageFields msg
  if num (slice sb n (n + 1)) ≠ 0 ∨ num (slice sb (n + 1) (n + 33)) ≠ (crc32 msg).toNat then
    .error ⟨.corruptShare, k, 1⟩
  else if num (slice msg 40 (44 + l / 4)) ≠ 0 then .error ⟨.corruptShare, k, 2⟩
  else if fields.gc.toNat ≤ fields.gi.toNat then .error ⟨.corruptShare, k, 3⟩
  else if fields.gc.toNat < fields.gt.toNat then .error ⟨.corruptShare, k, 4⟩
  else .ok ⟨fields, messageValue msg l⟩

/-- The value length of a share of `w` words (R155). -/
def shareValueLen (w : Nat) : Nat := 4 * (w - 7) / 3

/-- A decoded share written to the SHF registers, SECRET and LEN (R158). -/
def State.loadShare (s : State) (e : StoreEntry) : State :=
  { s with
    shf := e.fields
    secret := overwrite s.secret e.value
    len := BitVec.ofNat 6 e.value.length }

/-- SS.DECODE (R158). -/
def execSsDecode (push : Byte) (s : State) : Host.Outcome State Fault Refusal :=
  finish s <|
    if s.wordCount ∉ Config.ssWords then raise .invalidLength s.wordCount 0
    else
      match decodeShare (joinWords s.activeWords) (shareValueLen s.wordCount) s.store.length with
      | .error r => .error r
      | .ok e =>
        if push.getLsbD 0 then
          if Config.storeSlots ≤ s.store.length then raise .storeFull s.store.length 0
          else .ok { s.loadShare e with store := s.store ++ [e] }
        else .ok (s.loadShare e)

/-- SS.CLEAR (R159). -/
def execSsClear (s : State) : Host.Outcome State Fault Refusal := finish s (.ok { s with store := [] })

/-- SS.GENID (R160): two draws, the top bit of the first dropped. -/
def execSsGenid (s : State) : Host.Outcome State Fault Refusal :=
  let b0 := draw s.env
  let b1 := draw b0.2
  finish s (.ok { s with shf := { s.shf with id := (b0.1 ++ b1.1).setWidth 15 }, env := b1.2 })

/-! ### Recovery -/

/-- The first disagreement of an entry with the first entry of the store, as a sub-code (R161, R162). -/
def mismatchCode (first e : StoreEntry) : Option Nat :=
  if e.fields.id ≠ first.fields.id then some 1
  else if e.fields.ie ≠ first.fields.ie then some 2
  else if e.fields.gc ≠ first.fields.gc then some 3
  else if e.fields.gt ≠ first.fields.gt then some 4
  else if e.value.length ≠ first.value.length then some 5
  else none

/-- The first slot of the store that disagrees with the first entry, with the sub-code (R162). -/
def firstMismatch (first : StoreEntry) (store : List (StoreEntry × Nat)) : Option Report :=
  store.findSome? fun e => (mismatchCode first e.1).map fun code => ⟨.mismatchedShareSet, e.2, code⟩

/-- The member point of a stored share: x = mi + 1 (R156). -/
def memberPoint (e : StoreEntry × Nat) : Point := ⟨e.2, e.1.fields.mi.setWidth 8 + 1, e.1.value⟩

/-- The first slot of a group whose member threshold differs from the group's first (R162). -/
def thresholdMismatch (mt : BitVec 5) (members : List (StoreEntry × Nat)) : Option Report :=
  members.findSome? fun e =>
    if e.1.fields.mt ≠ mt then some ⟨.mismatchedShareSet, e.2, 6⟩ else none

/-- One group's checks and member-level reconstruction (R162): the point at x = g + 1, or none where
the group is empty or short of members; `l` is the value length. -/
def resolveGroup (members : List (StoreEntry × Nat)) (g l : Nat) : Except Report (Option Point) :=
  match members with
  | [] => .ok none
  | e :: _ =>
    match thresholdMismatch e.1.fields.mt members with
    | some r => .error r
    | none =>
      match distinctPoints [] (members.map memberPoint) with
      | .error slot => .error ⟨.duplicateShare, slot, g⟩
      | .ok ps =>
        if ps.length < e.1.fields.mt.toNat then .ok none
        else .ok (some ⟨g, BitVec.ofNat 8 (g + 1), interp0 (ps.take e.1.fields.mt.toNat) l⟩)

/-- The entries of the group `g`, in store order, with their slots (R162). -/
def groupMembers (store : List (StoreEntry × Nat)) (g : Nat) : List (StoreEntry × Nat) :=
  store.filter fun e => e.1.fields.gi.toNat == g

/-- The resolved groups among `gs`, in order; a group's error stops the scan (R162). -/
def resolveGroups (store : List (StoreEntry × Nat)) (l : Nat) : List Nat → Except Report (List Point)
  | [] => .ok []
  | g :: gs =>
    match resolveGroup (groupMembers store g) g l with
    | .error r => .error r
    | .ok p =>
      match resolveGroups store l gs with
      | .error r => .error r
      | .ok ps => .ok (p.toList ++ ps)

/-- The secret a share store gives, by the two-level reconstruction (R162), or the error. -/
def recoverSecret (store : List StoreEntry) : Except Report (List Byte) :=
  match store with
  | [] => .error ⟨.insufficientGroups, 0, 0⟩
  | first :: _ =>
    match firstMismatch first store.zipIdx with
    | some r => .error r
    | none =>
      match resolveGroups store.zipIdx first.value.length (List.range 16) with
      | .error r => .error r
      | .ok ps =>
        if ps.length < first.fields.gt.toNat then
          .error ⟨.insufficientGroups, ps.length, first.fields.gt.toNat⟩
        else .ok (interp0 (ps.take first.fields.gt.toNat) first.value.length)

/-- SS.RECOVER (R162). -/
def execSsRecover (s : State) : Host.Outcome State Fault Refusal :=
  finish s <|
    match recoverSecret s.store with
    | .error r => .error r
    | .ok secret =>
      .ok { s with secret := overwrite s.secret secret, len := BitVec.ofNat 6 secret.length }

end Sys2Proof.Machine
end

