-- ==== Sys2Proof/Machine/WordList.lean ====
section
/-! DEFINITION. The word-list unit, WL.INDEX and WL.WORD (40_wordlist.md). Each command is its shared
operation at the ROM `Config.wordList`; the operation takes the word list as an argument, so that it can be
run on a list written out. -/

namespace Sys2Proof.Machine

/-- `lower(c)`: A to Z folded to a to z, every other byte unchanged (R103). -/
def lower (c : Byte) : Byte := if 0x41 ≤ c.toNat ∧ c.toNat ≤ 0x5A then c + 0x20 else c

/-- `pad8(s)`: the string followed by zero bytes up to 8 (R104). -/
def pad8 (s : List Byte) : List Byte := s ++ List.replicate (8 - s.length) 0

/-- `key(WT)` (R104). -/
def wordKey (wt : Vector Byte 8) : List Byte := wt.toList.map lower

/-- The 2048 indices in ascending order. -/
def wordIndices : List WordIndex := (List.range 2048).map (BitVec.ofNat 11)

/-- The index of the ROM entry a key matches, byte for byte over 8 bytes (R104, R105). -/
def findWord (word : WordIndex → List Byte) (key : List Byte) : Option WordIndex :=
  wordIndices.find? fun i => pad8 (word i) == key

/-- WL.INDEX over the word list `word` (R105). DEDUCED (log 26, unsafe): it writes `WORDS[slot]` for every
slot 0..31, whatever WCOUNT is, where R44 has every command but ZEROIZE leave `WORDS[W..32)` unchanged. -/
def State.indexWord (s : State) (word : WordIndex → List Byte) (slot : Nat) : CmdResult :=
  if 31 < slot then badParameter .f3
  else
    match findWord word (wordKey s.wt) with
    | some i => .ok { s with result := i.setWidth 32, words := s.words.setIfInBounds slot i }
    | none => raise .unknownWord slot 0

/-- WL.WORD over the word list `word` (R106). -/
def State.lookupWord (s : State) (word : WordIndex → List Byte) (slot : Nat) : CmdResult :=
  if 31 < slot then badParameter .f3
  else .ok { s with wt := overwrite s.wt (pad8 (word (s.words.getD slot 0))) }

/-- WL.INDEX (R105). -/
def execWlIndex (slot : Byte) (s : State) : Host.Outcome State Fault Refusal :=
  finish s (s.indexWord Config.wordList.word slot.toNat)

/-- WL.WORD (R106). -/
def execWlWord (slot : Byte) (s : State) : Host.Outcome State Fault Refusal :=
  finish s (s.lookupWord Config.wordList.word slot.toNat)

end Sys2Proof.Machine
end

