-- ==== Sys2Proof/Machine/Dispatch.lean ====
section
/-! DEFINITION. One arm per command (30_encoding.md R90). -/

namespace Sys2Proof.Machine

def exec (i : Instr) (s : State) : Host.Outcome State Fault Refusal :=
  match i with
  | .nop => Sys2Proof.Machine.execNop s
  | .gfAdd a b => Sys2Proof.Machine.execGfAdd a b s
  | .gfMul a b => Sys2Proof.Machine.execGfMul a b s
  | .gfInv a => Sys2Proof.Machine.execGfInv a s
  | .shEval t x slot => Sys2Proof.Machine.execShEval t x slot s
  | .shGencoef t => Sys2Proof.Machine.execShGencoef t s
  | .shSplit t n => Sys2Proof.Machine.execShSplit t n s
  | .shInterp t => Sys2Proof.Machine.execShInterp t s
  | .shLoadpt slot => Sys2Proof.Machine.execShLoadpt slot s
  | .shStorept x slot => Sys2Proof.Machine.execShStorept x slot s
  | .ckCompute => Sys2Proof.Machine.execCkCompute s
  | .ckVerify c => Sys2Proof.Machine.execCkVerify c s
  | .mnEncode => Sys2Proof.Machine.execMnEncode s
  | .mnDecode => Sys2Proof.Machine.execMnDecode s
  | .wlIndex slot => Sys2Proof.Machine.execWlIndex slot s
  | .wlWord slot => Sys2Proof.Machine.execWlWord slot s
  | .dgTodigits => Sys2Proof.Machine.execDgTodigits s
  | .dgFromdigits => Sys2Proof.Machine.execDgFromdigits s
  | .ssEncode => Sys2Proof.Machine.execSsEncode s
  | .ssDecode push => Sys2Proof.Machine.execSsDecode push s
  | .ssClear => Sys2Proof.Machine.execSsClear s
  | .ssRecover => Sys2Proof.Machine.execSsRecover s
  | .ssGenid => Sys2Proof.Machine.execSsGenid s
  | .zeroize => Sys2Proof.Machine.execZeroize s

end Sys2Proof.Machine
end

