-- ==== Sys2Proof/Machine/Step.lean ====
section
/-! DEFINITION. One step of the machine: the next move of the event list, or the unit's own step when the
list is empty (00_scope.md R13; 30_encoding.md R95; log 1). -/

namespace Sys2Proof.Machine

/-- The unit executes the word `w` and completes it (R95, R96). -/
def runWord (w : Word) (s : State) : Host.Outcome State Fault Refusal :=
  match decode w with
  | .ok i => exec i s
  | .error r => .next (s.completeIllegal r)

/-- The unit's move: it completes the pending command; idle, it does nothing (R95, R202). -/
def stepUnit (s : State) : Host.Outcome State Fault Refusal :=
  match s.pendingWord with
  | some w => runWord w s
  | none => .next s

/-- One move of an agent. -/
def stepEvent (e : Event) (s : State) : Host.Outcome State Fault Refusal :=
  match e with
  | .access a => busAccess a s
  | .unit => stepUnit s
  | .reset overlapped => .next (s.resetInput overlapped)

/-- One step: the oldest pending move, or the unit's where none is pending. -/
def step (s : State) : Host.Outcome State Fault Refusal :=
  match s.env.events with
  | [] => stepUnit s
  | e :: rest => stepEvent e (s.withEvents rest)

/-- The state in which the low `nbits` bits of `w` were just issued as a command word (R94) and the unit
moves next (log 2). -/
def State.withFetchWord (s : State) (nbits w : Nat) : State :=
  (s.issue (BitVec.ofNat 32 (w % 2 ^ nbits))).withEvents (.unit :: s.env.events)

end Sys2Proof.Machine
end

