-- ==== Sys2Proof/Safety.lean ====
section
/-! DEFINITION. What claims about runs are stated in: the machine's invariant and the moves that do not stop
it. -/

namespace Sys2Proof.Machine

/-- A stored share has the domains of 10_state.md R50, and passed the checks of SS.DECODE
(45_share_codec.md R152, R158). -/
structure StoreEntry.Valid (e : StoreEntry) : Prop where
  groupThreshold : 1 ≤ e.fields.gt.toNat ∧ e.fields.gt.toNat ≤ 16
  groupCount : 1 ≤ e.fields.gc.toNat ∧ e.fields.gc.toNat ≤ 16
  memberThreshold : 1 ≤ e.fields.mt.toNat ∧ e.fields.mt.toNat ≤ 16
  groupIndex : e.fields.gi.toNat < e.fields.gc.toNat
  thresholdInCount : e.fields.gt.toNat ≤ e.fields.gc.toNat
  valueLength : e.value.length ∈ Config.mnLens

/-- The codes the core can leave in STATUS.ERRCODE: 0 or an error it raises; never 0x0A (R183, R188). -/
def reportableCodes : List (BitVec 8) :=
  [0x00, 0x01, 0x02, 0x03, 0x04, 0x05, 0x06, 0x07, 0x08, 0x09, 0x0B, 0x80, 0x81, 0x82]

/-- The invariant of every run. -/
structure State.Inv (s : State) : Prop where
  /-- The store holds at most 256 entries (R50). -/
  storeBound : s.store.length ≤ Config.storeSlots
  /-- Every stored share is valid (R50). -/
  storeValid : ∀ e ∈ s.store, e.Valid
  /-- While busy, CMD is the pending word and the report is clear (R27, R28, R29, R94). -/
  busyClear : ∀ w, s.phase = .busy w →
    s.cmd = w ∧ s.done = false ∧ s.err = false ∧ s.errcode = 0 ∧ s.errindex = 0 ∧ s.errgroup = 0
  /-- ERRCODE holds a code the core reports (R183, R188). -/
  codeReportable : s.errcode ∈ reportableCodes
  /-- ERR comes with a code (R28). -/
  errHasCode : s.err = true → s.errcode ≠ 0
  /-- Without an error ERRINFO is 0 (R29). -/
  infoHasCode : s.errcode = 0 → s.errindex = 0 ∧ s.errgroup = 0
  /-- RESULT is zero-extended from at most 11 bits (R31). -/
  resultWidth : s.result.toNat < 2048

/-- The next move is not a bus access the bus does not accept (R71). -/
def State.nextMoveAccepted (s : State) : Bool :=
  match s.env.events with
  | .access a :: _ => a.accepted
  | .unit :: _ => true
  | .reset _ :: _ => true
  | [] => true

/-- A run of `n` steps that does not stop. -/
def SafeRun (n : Nat) (s : State) : Prop := ∃ t, Host.Core.run core n s = .next t

end Sys2Proof.Machine
end

