-- ==== Sys2Proof/Certificates/Slice0/Obligations.lean ====
section
/-! DEFINITION. The statements for the provers. Each formalises rules of spec/ named in its docstring; the
helper definitions at the top say in the spec's terms what the statements need. -/

namespace Sys2Proof.Claims

open Sys2Proof.Machine

/-! ### Helpers for the statements -/

/-- The command completes with an error that records code, index and group, and changes nothing else
(R190, R191). -/
abbrev Reports (i : Instr) (s : State) (code : BitVec 8) (index group : Nat) : Prop :=
  exec i s = .next
    { s with
      err := true
      errcode := code
      errindex := BitVec.ofNat 16 index
      errgroup := BitVec.ofNat 8 group
      done := true
      phase := .idle }

/-- `BadParameter` with the parameter id `id` (R97, R188). -/
abbrev RefusesParam (i : Instr) (s : State) (id : Nat) : Prop := Reports i s 0x81 id 0

/-- The state with its oldest pending move taken. -/
abbrev popped (s : State) (rest : List Event) : State := { s with env := { s.env with events := rest } }

/-- The unit moves next from `s`, and `s0` is the state it works on. -/
def UnitMoves (s s0 : State) : Prop :=
  (s.env.events = [] ∧ s0 = s) ∨ ∃ rest, s.env.events = .unit :: rest ∧ s0 = popped s rest

/-- The state after an illegal word with opcode `op` completed (R91, R92, R189). -/
abbrev illegalDone (s : State) (op : Byte) : State :=
  { s with
    err := true
    errcode := 0x80
    errindex := op.setWidth 16
    errgroup := 0
    done := true
    phase := .idle }

/-- R86 to R91: a word with this OP is the command `cmd F1 F2 F3` where the bits of F1, F2 and F3 under the masks
are 0, and an illegal word where one of them is set. -/
abbrev EncodesAs (op m1 m2 m3 : Byte) (cmd : Byte → Byte → Byte → Instr) : Prop :=
  ∀ f1 f2 f3 : Byte, decode (f3 ++ f2 ++ f1 ++ op) =
    if f1 &&& m1 = 0 ∧ f2 &&& m2 = 0 ∧ f3 &&& m3 = 0 then .ok (cmd f1 f2 f3)
    else .error (.reservedField op)

/-- Element reads. -/
abbrev secretAt (s : State) (j : Nat) : Byte := s.secret.getD j 0
abbrev wordAt (s : State) (i : Nat) : WordIndex := s.words.getD i 0
abbrev digitAt (s : State) (j : Nat) : Byte := s.digits.getD j 0
abbrev pyAt (s : State) (k j : Nat) : Byte := (s.pointRow k).getD j 0

/-- The bits of F1, F2 and F3 that must be 0 for an opcode of the table of R90 (R91). -/
def mustBeZero : Nat → Option (Byte × Byte × Byte)
  | 0x00 => some (0xFF, 0xFF, 0xFF)
  | 0x01 => some (0x00, 0x00, 0xFF)
  | 0x02 => some (0x00, 0x00, 0xFF)
  | 0x03 => some (0x00, 0xFF, 0xFF)
  | 0x10 => some (0x00, 0x00, 0x00)
  | 0x11 => some (0x00, 0xFF, 0xFF)
  | 0x12 => some (0x00, 0x00, 0xFF)
  | 0x13 => some (0x00, 0xFF, 0xFF)
  | 0x14 => some (0xFF, 0xFF, 0x00)
  | 0x15 => some (0xFF, 0x00, 0x00)
  | 0x20 => some (0xFF, 0xFF, 0xFF)
  | 0x21 => some (0x00, 0xFF, 0xFF)
  | 0x30 => some (0xFF, 0xFF, 0xFF)
  | 0x31 => some (0xFF, 0xFF, 0xFF)
  | 0x38 => some (0xFF, 0xFF, 0x00)
  | 0x39 => some (0xFF, 0xFF, 0x00)
  | 0x40 => some (0xFF, 0xFF, 0xFF)
  | 0x41 => some (0xFF, 0xFF, 0xFF)
  | 0x50 => some (0xFF, 0xFF, 0xFF)
  | 0x51 => some (0xFE, 0xFF, 0xFF)
  | 0x52 => some (0xFF, 0xFF, 0xFF)
  | 0x53 => some (0xFF, 0xFF, 0xFF)
  | 0x54 => some (0xFF, 0xFF, 0xFF)
  | 0x7F => some (0xFF, 0xFF, 0xFF)
  | _ => none

/-- The reserved OP values, as the ranges of R92. -/
def reservedOp (n : Nat) : Prop :=
  (0x04 ≤ n ∧ n ≤ 0x0F) ∨ (0x16 ≤ n ∧ n ≤ 0x1F) ∨ (0x22 ≤ n ∧ n ≤ 0x2F) ∨ (0x32 ≤ n ∧ n ≤ 0x37) ∨
    (0x3A ≤ n ∧ n ≤ 0x3F) ∨ (0x42 ≤ n ∧ n ≤ 0x4F) ∨ (0x55 ≤ n ∧ n ≤ 0x7E) ∨ (0x80 ≤ n ∧ n ≤ 0xFF)

/-- The bits of the location at `off` that a write stores (10_state.md section 2, R60 to R65). -/
def writableMask (off : Nat) : Word :=
  if off = 0x010 then 0x00000001
  else if off = 0x018 ∨ off = 0x01C then 0x0000003F
  else if off = 0x020 then 0x000000FF
  else if off = 0x024 then 0x0000001F
  else if off = 0x030 ∨ off = 0x034 then 0xFFFFFFFF
  else if off = 0x040 then 0x001F7FFF
  else if off = 0x044 then 0x001F1F0F
  else if off = 0x048 then 0x00001F0F
  else if 0x100 ≤ off ∧ off < 0x120 then 0xFFFFFFFF
  else if 0x200 ≤ off ∧ off < 0x280 then 0x000007FF
  else if 0x300 ≤ off ∧ off < 0x380 then 0xFFFFFFFF
  else if 0x400 ≤ off ∧ off < 0x610 then 0xFFFFFFFF
  else if 0x800 ≤ off ∧ off < 0xA00 then 0xFFFFFFFF
  else 0

/-- SECRET and COEF row 0 are one storage (R63). -/
def aliased (off off' : Nat) : Prop :=
  (0x100 ≤ off ∧ off < 0x120 ∧ off' = off + 0x300) ∨
    (0x400 ≤ off ∧ off < 0x420 ∧ off = off' + 0x300)

/-- The reserved offsets (R42, R66). -/
def reservedOffset (off : Nat) : Prop :=
  off = 0x038 ∨ off = 0x03C ∨ (0x04C ≤ off ∧ off < 0x100) ∨ (0x120 ≤ off ∧ off < 0x200) ∨
    (0x280 ≤ off ∧ off < 0x300) ∨ (0x380 ≤ off ∧ off < 0x400) ∨ (0x610 ≤ off ∧ off < 0x800) ∨
    (0xA00 ≤ off ∧ off < 0x1000)

/-- A bus access the bus accepts: 32 bits at a multiple of 4 (R71). -/
def aligned32 : Access → Prop
  | .read off width => width = .word ∧ off.toNat % 4 = 0
  | .write off width _ => width = .word ∧ off.toNat % 4 = 0

/-- The error codes a command can report: the "raised by" column of R188. -/
def raisedBy : Instr → List (BitVec 8)
  | .nop => []
  | .gfAdd _ _ => []
  | .gfMul _ _ => []
  | .gfInv _ => [0x04]
  | .shEval _ _ _ => [0x81]
  | .shGencoef _ => [0x81]
  | .shSplit _ _ => [0x81]
  | .shInterp _ => [0x81, 0x06, 0x05]
  | .shLoadpt _ => [0x81]
  | .shStorept _ _ => [0x81]
  | .ckCompute => [0x81]
  | .ckVerify _ => [0x81]
  | .mnEncode => [0x81]
  | .mnDecode => [0x02, 0x03]
  | .wlIndex _ => [0x81, 0x01]
  | .wlWord _ => [0x81]
  | .dgTodigits => [0x81]
  | .dgFromdigits => [0x0B]
  | .ssEncode => [0x81]
  | .ssDecode push => if push.getLsbD 0 then [0x02, 0x07, 0x82] else [0x02, 0x07]
  | .ssClear => []
  | .ssRecover => [0x08, 0x09, 0x06]
  | .ssGenid => []
  | .zeroize => []

/-- The polynomial a byte stands for: bit `i` is the coefficient of `x^i` (R122). -/
noncomputable def bytePoly (a : Byte) : Polynomial (ZMod 2) :=
  ∑ i ∈ Finset.range 8, if a.getLsbD i then Polynomial.X ^ i else 0

/-- `POLY(x) = x⁸ + x⁴ + x³ + x + 1` (R123). -/
noncomputable def polyModulus : Polynomial (ZMod 2) :=
  Polynomial.X ^ 8 + Polynomial.X ^ 4 + Polynomial.X ^ 3 + Polynomial.X + 1

/-- The value at `x` of the polynomial of degree below `t` with coefficients `c`, as the sum of R138. -/
def polyAt (c : Nat → Byte) (t : Nat) (x : Byte) : Byte :=
  gsum ((List.range t).map fun k => gmul (c k) (gpow x k))

/-- The `n`-th byte drawn from an environment: a supplied one, or a free one (R52). -/
def drawAt (e : Env) (n : Nat) : Byte := e.draws.getD n (Config.freeByte (e.freshDraws + (n - e.draws.length)))

/-- The environment after `n` draws. -/
def drained (e : Env) (n : Nat) : Env :=
  { e with draws := e.draws.drop n, freshDraws := e.freshDraws + (n - e.draws.length) }

/-- Coefficient (k, j) after the draws of SH.GENCOEF `t` with length `l` (R141). -/
def drawnCoef (s : State) (t l k j : Nat) : Byte :=
  if 1 ≤ k ∧ k < t ∧ j < l then drawAt s.env ((k - 1) * l + j) else s.coefByte k j

/-- The y-bytes of point slot `k` up to LEN. -/
def slotY (s : State) (k : Nat) : List Byte := (List.range s.byteLen).map (pyAt s k)

/-- Slot `k` repeats an earlier slot's x with another y (R147). -/
def conflictsAt (s : State) (k : Nat) : Prop :=
  ∃ m, m < k ∧ s.pointX m = s.pointX k ∧ slotY s m ≠ slotY s k

/-- The slots below NPTS whose x no earlier slot has, in slot order (R147). -/
def freshSlots (s : State) : List Nat :=
  (List.range s.npts.toNat).filter fun k => ∀ m < k, s.pointX m ≠ s.pointX k

/-- The Lagrange interpolation at 0 of points `(x, y)` over GF(256): R145 and R146 as one formula. -/
def lagrangeAtZero (ps : List (Byte × Byte)) : Byte :=
  gsum ((List.range ps.length).map fun i =>
    gmul (ps.getD i (0, 0)).2
      (gprod (((List.range ps.length).filter (· ≠ i)).map fun m =>
        gmul (ps.getD m (0, 0)).1 (ginv (gadd (ps.getD m (0, 0)).1 (ps.getD i (0, 0)).1)))))

/-- Bit `p` of the mnemonic's bit string: entropy bits, then checksum bits (R115). -/
def mnemonicBit (e : List Byte) (p : Nat) : Bool :=
  if p < 8 * e.length then (e.getD (p / 8) 0).getLsbD (7 - p % 8)
  else (cs e).testBit (e.length / 4 - 1 - (p - 8 * e.length))

/-- Bit `p` of the concatenated 11-bit groups of WORDS (R118, R158). -/
def wordsBit (s : State) (p : Nat) : Bool := (wordAt s (p / 11)).getLsbD (10 - p % 11)

/-- The number in positions `i` to `j−1` of the concatenated groups of WORDS. -/
def wordsField (s : State) (i j : Nat) : Nat := num ((List.range (j - i)).map fun k => wordsBit s (i + k))

/-- Bit `p` of a share's message (R153): header, pad, value. -/
def messageBit (f : ShareFields) (value : List Byte) (p : Nat) : Bool :=
  let v := 44 + value.length / 4
  if p < 15 then f.id.toNat.testBit (14 - p)
  else if p < 20 then f.ie.toNat.testBit (19 - p)
  else if p < 24 then f.gi.toNat.testBit (23 - p)
  else if p < 28 then (f.gt.toNat - 1).testBit (27 - p)
  else if p < 32 then (f.gc.toNat - 1).testBit (31 - p)
  else if p < 36 then f.mi.toNat.testBit (35 - p)
  else if p < 40 then (f.mt.toNat - 1).testBit (39 - p)
  else if p < v then false
  else (value.getD ((p - v) / 8) 0).getLsbD (7 - (p - v) % 8)

/-- Bit `p` of a share's bit string (the position table of R153). -/
def shareBit (f : ShareFields) (value : List Byte) (p : Nat) : Bool :=
  let n := 44 + value.length / 4 + 8 * value.length
  if p < n then messageBit f value p
  else if p = n then false
  else (crc32 ((List.range n).map (messageBit f value))).getLsbD (31 - (p - n - 1))

/-- SS.ENCODE's parameter checks pass (R157). -/
def encodable (s : State) : Prop :=
  s.byteLen ∈ [16, 20, 24, 28, 32] ∧ 1 ≤ s.shf.gc.toNat ∧ s.shf.gc.toNat ≤ 16 ∧ 1 ≤ s.shf.gt.toNat ∧
    s.shf.gt.toNat ≤ 16 ∧ 1 ≤ s.shf.mt.toNat ∧ s.shf.mt.toNat ≤ 16 ∧ s.shf.gi.toNat < s.shf.gc.toNat ∧
    s.shf.gt.toNat ≤ s.shf.gc.toNat

/-- Slot `k` of a share store. -/
def entryAt (st : List StoreEntry) (k : Nat) : StoreEntry := st.getD k ⟨ShareFields.zero, []⟩

/-- How entry `e` first disagrees with the first entry `e0`, as R162's sub-code. -/
def disagreement (e0 e : StoreEntry) : Option Nat :=
  if e.fields.id ≠ e0.fields.id then some 1
  else if e.fields.ie ≠ e0.fields.ie then some 2
  else if e.fields.gc ≠ e0.fields.gc then some 3
  else if e.fields.gt ≠ e0.fields.gt then some 4
  else if e.value.length ≠ e0.value.length then some 5
  else none

/-- All entries agree with the first on what R161 lists. -/
def storeAgrees (st : List StoreEntry) : Prop :=
  ∀ k < st.length, disagreement (entryAt st 0) (entryAt st k) = none

/-- The slots of group `g`, in store order. -/
def groupSlots (st : List StoreEntry) (g : Nat) : List Nat :=
  (List.range st.length).filter fun k => (entryAt st k).fields.gi.toNat = g

/-- Group `g`'s member threshold: that of its first entry. -/
def groupMt (st : List StoreEntry) (g : Nat) : Nat :=
  (entryAt st ((groupSlots st g).headD 0)).fields.mt.toNat

/-- The entries of group `g` agree on the member threshold. -/
def groupAgrees (st : List StoreEntry) (g : Nat) : Prop :=
  ∀ k ∈ groupSlots st g, (entryAt st k).fields.mt.toNat = groupMt st g

/-- Slot `k` of group `g` repeats an earlier slot's member index with another value. -/
def memberConflict (st : List StoreEntry) (g k : Nat) : Prop :=
  ∃ m ∈ groupSlots st g, m < k ∧ (entryAt st m).fields.mi = (entryAt st k).fields.mi ∧
    (entryAt st m).value ≠ (entryAt st k).value

/-- The group has no error of its own. -/
def groupClean (st : List StoreEntry) (g : Nat) : Prop :=
  groupAgrees st g ∧ ∀ k ∈ groupSlots st g, ¬ memberConflict st g k

/-- The slots of group `g` whose member index no earlier slot of the group has. -/
def memberSlots (st : List StoreEntry) (g : Nat) : List Nat :=
  (groupSlots st g).filter fun k =>
    ∀ m ∈ groupSlots st g, m < k → (entryAt st m).fields.mi ≠ (entryAt st k).fields.mi

/-- The groups with at least their threshold of distinct members, ascending (R162). -/
def resolvedGroups (st : List StoreEntry) : List Nat :=
  (List.range 16).filter fun g => groupSlots st g ≠ [] ∧ groupMt st g ≤ (memberSlots st g).length

/-- Byte `j` of group `g`'s value: interpolated from its first `mt` distinct members (R162, R163). -/
def groupValueByte (st : List StoreEntry) (g j : Nat) : Byte :=
  lagrangeAtZero (((memberSlots st g).take (groupMt st g)).map fun k =>
    ((entryAt st k).fields.mi.setWidth 8 + 1, (entryAt st k).value.getD j 0))

/-- Byte `j` of the recovered secret: interpolated from the first `gt` resolved groups (R162, R163). -/
def secretByte (st : List StoreEntry) (j : Nat) : Byte :=
  lagrangeAtZero (((resolvedGroups st).take (entryAt st 0).fields.gt.toNat).map fun g =>
    (BitVec.ofNat 8 (g + 1), groupValueByte st g j))

end Sys2Proof.Claims

open Sys2Proof Sys2Proof.Machine Sys2Proof.Claims

/-! ### Reset, steps and words -/

/-- R205: what reset leaves, every piece of state. -/
def Obligations.ResetLeavesTheSpecValues : Prop :=
  State.reset.phase = .idle ∧ State.reset.windowWord 0x000 = 0x47460007 ∧ State.reset.cmd = 0 ∧
    State.reset.statusWord = 0 ∧ State.reset.done = false ∧ State.reset.err = false ∧
    State.reset.ovr = false ∧ State.reset.errcode = 0 ∧ State.reset.errindex = 0 ∧
    State.reset.errgroup = 0 ∧ State.reset.errinfoWord = 0 ∧ State.reset.ie = false ∧
    State.reset.irq = false ∧ State.reset.result = 0 ∧ State.reset.len = 0 ∧ State.reset.wcount = 0 ∧
    State.reset.dcount = 0 ∧ State.reset.npts = 0 ∧ State.reset.cksum = 0 ∧
    State.reset.windowWord 0x02C = 0 ∧ State.reset.windowWord 0x030 = 0 ∧
    State.reset.windowWord 0x034 = 0 ∧ State.reset.shf = ⟨0, 0, 0, 0, 0, 0, 0⟩ ∧
    (∀ k < 8, State.reset.wt.getD k 0 = 0) ∧ (∀ j < 32, secretAt State.reset j = 0) ∧
    (∀ i < 32, wordAt State.reset i = 0) ∧ (∀ j < 128, digitAt State.reset j = 0) ∧
    (∀ k < 16, ∀ j < 32, State.reset.coefByte k j = 0) ∧ (∀ k < 16, State.reset.pointX k = 0) ∧
    (∀ k < 16, ∀ j < 32, pyAt State.reset k j = 0) ∧ State.reset.store = [] ∧
    (∀ s : State, s.shf = State.reset.shf → s.byteLen ∈ [16, 20, 24, 28, 32] →
      RefusesParam .ssEncode s 0x23)

/-- R206: the reset input applies the reset values at one instant, whatever the phase, abandons a running
command with none of its effects and without DONE, and asks nothing of the random source. That reset is a
move of the event list and leaves the outside world alone is the model's (log 1, 10, 13). -/
def Obligations.ResetInputAppliesResetValues : Prop :=
  ∀ (s : State) (o : Option Access) (rest : List Event), s.env.events = .reset o :: rest →
    ∃ e : Env, step s = .next { State.reset with env := e } ∧ e.events = rest ∧
      e.draws = s.env.draws ∧ e.freshDraws = s.env.freshDraws ∧
      (o = none → e = { s.env with events := rest })

/-- R95, R202: when the phase is Busy(w) and the unit moves, the step is `exec` of w's command at that
state, the move taken; an idle unit's move changes nothing; and a well-formed command just issued is the one
that runs. Which agent moves is the model's event list (log 1), the issue log 2. -/
def Obligations.StepRunsThePendingCommand : Prop :=
  (∀ (s s0 : State) (w : Word) (i : Instr), UnitMoves s s0 → s.phase = .busy w → decode w = .ok i →
    step s = exec i s0) ∧
  (∀ s s0 : State, UnitMoves s s0 → s.phase = .idle → step s = .next s0) ∧
  (∀ (s : State) (i : Instr), i.wellFormed = true →
    step (s.withFetchWord 32 (encode i).toNat) =
      exec i
        { s with
          cmd := encode i
          done := false
          err := false
          errcode := 0
          errindex := 0
          errgroup := 0
          phase := .busy (encode i) })

/-- R91, R92: a word with a nonzero unused field, an SS.DECODE word with one of F1 bits 7:1 set, and a word
whose OP is in the reserved ranges complete with IllegalCommand, INDEX = OP and GROUP = 0, and change no
other state. Which agent moves is the model's event list (log 1). -/
def Obligations.IllegalWordsAreReported : Prop :=
  (∀ (op f1 f2 f3 m1 m2 m3 : Byte) (s s0 : State), mustBeZero op.toNat = some (m1, m2, m3) →
    (f1 &&& m1 ≠ 0 ∨ f2 &&& m2 ≠ 0 ∨ f3 &&& m3 ≠ 0) →
    s.phase = .busy (f3 ++ f2 ++ f1 ++ op) → UnitMoves s s0 → step s = .next (illegalDone s0 op)) ∧
  (∀ (w : Word) (s s0 : State), reservedOp (w.extractLsb' 0 8).toNat → s.phase = .busy w →
    UnitMoves s s0 → step s = .next (illegalDone s0 (w.extractLsb' 0 8)))

/-- R93 over the rows of spec/opcode_table.json: a word is a command exactly when it matches a row, it then
matches one row only, and that row names the command. -/
def Obligations.EveryWordIsOneCommandOrIllegal : Prop :=
  ∀ w : Word,
    ((∃ i, decode w = .ok i) ↔ ∃ row ∈ opcodeTable, w &&& row.mask = row.pattern) ∧
    (∀ i, decode w = .ok i → ∃ row ∈ opcodeTable, w &&& row.mask = row.pattern ∧
      row.mnemonic = i.mnemonic ∧
      ∀ row' ∈ opcodeTable, w &&& row'.mask = row'.pattern → row' = row)

/-- R90, R100: decoding the encoding of a well-formed command gives it back, with every operand at every
value. -/
def Obligations.DecodeOfEncodeIsIdentity : Prop :=
  ∀ i : Instr, i.wellFormed = true → decode (encode i) = .ok i

/-- R93: what the decoder reads is a well-formed command whose encoding is the word itself: no bit of a
legal word is dropped. -/
def Obligations.EncodeOfDecodeIsIdentity : Prop :=
  ∀ (w : Word) (i : Instr), decode w = .ok i → i.wellFormed = true ∧ encode i = w

/-- Words of 95_test_vectors.md, and the example of R100, decode to the commands they stand for, or are
illegal. -/
def Obligations.SampleWordsDecode : Prop :=
  decode 0x00835702 = .ok (.gfMul 0x57 0x83) ∧ decode 0x00005303 = .ok (.gfInv 0x53) ∧
    decode 0x03FF0210 = .ok (.shEval 2 0xFF 3) ∧ decode 0x00050312 = .ok (.shSplit 3 5) ∧
    decode 0x05000015 = .ok (.shStorept 0 5) ∧ decode 0x00006621 = .ok (.ckVerify 0x66) ∧
    decode 0x00000031 = .ok .mnDecode ∧ decode 0x05000038 = .ok (.wlIndex 5) ∧
    decode 0x00000041 = .ok .dgFromdigits ∧ decode 0x00000151 = .ok (.ssDecode 1) ∧
    decode 0x0000007F = .ok .zeroize ∧ decode 0x00000251 = .error (.reservedField 0x51) ∧
    decode 0x00000004 = .error (.reservedOpcode 0x04)

/-- The invariant holds at reset (R205 with R50, R28, R29, R31). -/
def Obligations.InvariantHoldsAtReset : Prop := State.reset.Inv

/-- Every step keeps the invariant: the store stays bounded and valid (R50), a busy unit's report is clear
and CMD is the pending word (R27, R94), ERRCODE holds a code the core reports and never 0x0A (R183, R188),
ERR has a code, ERRINFO is 0 without one, RESULT is at most 11 bits wide (R31). Moves come from the model's
event list (log 1). -/
def Obligations.EveryStepKeepsTheInvariant : Prop :=
  ∀ s s' : State, s.Inv → step s = .next s' → s'.Inv

/-- R71, R84, R195: a step stops exactly where its move is a bus access that is not an aligned 32-bit one,
by refusal; nothing else stops the machine, for the core has no fault (R84, R190, R195; log 16). The refusal
is the model's treatment of I3 (log 9), the moves its event list (log 1). -/
def Obligations.StepStopsOnlyOnUnacceptedAccess : Prop :=
  ∀ s : State,
    (∀ a rest, s.env.events = .access a :: rest → ¬ aligned32 a → step s = .refused .unacceptedAccess) ∧
    ((∀ a rest, s.env.events = .access a :: rest → aligned32 a) → ∃ s', step s = .next s')

/-! ### The bus -/

/-- R94: a write of w to CMD while idle stores w, clears the report and makes the unit busy with w,
unchecked; nothing else changes. The access is a move of the model's event list (log 1). -/
def Obligations.CmdWriteIssuesTheCommand : Prop :=
  ∀ (s : State) (w : Word) (rest : List Event), s.phase = .idle →
    s.env.events = .access (.write 0x004 .word w) :: rest →
    step s = .next
      { popped s rest with
        cmd := w
        done := false
        err := false
        errcode := 0
        errindex := 0
        errgroup := 0
        phase := .busy w }

/-- R74: while busy every host write, at any offset, is dropped; it only sets OVR. The access is a move of
the model's event list (log 1). -/
def Obligations.WriteWhileBusyIsDropped : Prop :=
  ∀ (s : State) (w : Word) (off : BitVec 12) (v : Word) (rest : List Event), s.phase = .busy w →
    off.toNat % 4 = 0 → s.env.events = .access (.write off .word v) :: rest →
    step s = .next { popped s rest with ovr := true }

/-- R73, R75: a read changes nothing in the core. While idle it returns the location's content; while busy,
ID, CMD and STATUS return their defined values and any other location returns some value. Accesses and
replies are the model's (log 1, 4, 5). -/
def Obligations.ReadsHaveNoSideEffect : Prop :=
  (∀ (s : State) (off : BitVec 12) (rest : List Event), s.phase = .idle → off.toNat % 4 = 0 →
    s.env.events = .access (.read off .word) :: rest →
    step s = .next
      { s with
        env := { s.env with events := rest, replies := s.windowWord off.toNat :: s.env.replies } }) ∧
  (∀ (s : State) (w : Word) (off : BitVec 12) (rest : List Event), s.phase = .busy w →
    off.toNat % 4 = 0 → s.env.events = .access (.read off .word) :: rest →
    ∃ (v : Word) (n : Nat),
      step s = .next
        { s with env := { s.env with events := rest, replies := v :: s.env.replies, freshReads := n } } ∧
      (off = 0x000 → v = 0x47460007) ∧ (off = 0x004 → v = s.cmd) ∧
      (off = 0x008 → v.getLsbD 0 = true ∧ v.getLsbD 1 = s.done ∧ v.getLsbD 2 = s.err ∧
        v.getLsbD 3 = s.ovr ∧ v.extractLsb' 4 4 = 0 ∧ v.extractLsb' 8 8 = s.errcode ∧
        v.extractLsb' 16 16 = 0))

/-- 10_state.md section 2: what each register reads as, field by field. -/
def Obligations.RegistersReadTheirFields : Prop :=
  ∀ s : State, s.windowWord 0x000 = 0x47460007 ∧ s.windowWord 0x004 = s.cmd ∧
    ((s.windowWord 0x008).getLsbD 0 = true ↔ ∃ w, s.phase = .busy w) ∧
    (s.windowWord 0x008).getLsbD 1 = s.done ∧ (s.windowWord 0x008).getLsbD 2 = s.err ∧
    (s.windowWord 0x008).getLsbD 3 = s.ovr ∧ (s.windowWord 0x008).extractLsb' 4 4 = 0 ∧
    (s.windowWord 0x008).extractLsb' 8 8 = s.errcode ∧ (s.windowWord 0x008).extractLsb' 16 16 = 0 ∧
    (s.windowWord 0x00C).extractLsb' 0 16 = s.errindex ∧
    (s.windowWord 0x00C).extractLsb' 16 8 = s.errgroup ∧ (s.windowWord 0x00C).extractLsb' 24 8 = 0 ∧
    (s.windowWord 0x010).getLsbD 0 = s.ie ∧ (s.windowWord 0x010).extractLsb' 1 31 = 0 ∧
    s.windowWord 0x014 = s.result ∧ (s.windowWord 0x018).toNat = s.len.toNat ∧
    (s.windowWord 0x01C).toNat = s.wcount.toNat ∧ (s.windowWord 0x020).toNat = s.dcount.toNat ∧
    (s.windowWord 0x024).toNat = s.npts.toNat ∧ (s.windowWord 0x028).toNat = s.cksum.toNat ∧
    (s.store.length ≤ 256 → (s.windowWord 0x02C).toNat = s.store.length) ∧
    (∀ k < 4, (s.windowWord 0x030).extractLsb' (8 * k) 8 = s.wt.getD k 0) ∧
    (∀ k < 4, (s.windowWord 0x034).extractLsb' (8 * k) 8 = s.wt.getD (4 + k) 0) ∧
    (s.windowWord 0x040).extractLsb' 0 15 = s.shf.id ∧ (s.windowWord 0x040).getLsbD 15 = false ∧
    (s.windowWord 0x040).extractLsb' 16 5 = s.shf.ie ∧ (s.windowWord 0x040).extractLsb' 21 11 = 0 ∧
    (s.windowWord 0x044).extractLsb' 0 4 = s.shf.gi ∧ (s.windowWord 0x044).extractLsb' 4 4 = 0 ∧
    (s.windowWord 0x044).extractLsb' 8 5 = s.shf.gt ∧ (s.windowWord 0x044).extractLsb' 13 3 = 0 ∧
    (s.windowWord 0x044).extractLsb' 16 5 = s.shf.gc ∧ (s.windowWord 0x044).extractLsb' 21 11 = 0 ∧
    (s.windowWord 0x048).extractLsb' 0 4 = s.shf.mi ∧ (s.windowWord 0x048).extractLsb' 4 4 = 0 ∧
    (s.windowWord 0x048).extractLsb' 8 5 = s.shf.mt ∧ (s.windowWord 0x048).extractLsb' 13 19 = 0

/-- R60 to R65, R68: where each buffer element sits in the window, the byte of lowest index in bits 7:0; an
access to COEF row 0 has exactly the effect of the same access to SECRET. -/
def Obligations.BuffersReadLittleEndian : Prop :=
  ∀ s : State,
    (∀ m < 8, ∀ k < 4, (s.windowWord (0x100 + 4 * m)).extractLsb' (8 * k) 8 = secretAt s (4 * m + k)) ∧
    (∀ i < 32, (s.windowWord (0x200 + 4 * i)).toNat = (wordAt s i).toNat) ∧
    (∀ m < 32, ∀ k < 4, (s.windowWord (0x300 + 4 * m)).extractLsb' (8 * k) 8 = digitAt s (4 * m + k)) ∧
    (∀ r < 16, ∀ m < 8, ∀ k < 4,
      (s.windowWord (0x400 + 32 * r + 4 * m)).extractLsb' (8 * k) 8 = s.coefByte r (4 * m + k)) ∧
    (∀ m < 4, ∀ k < 4, (s.windowWord (0x600 + 4 * m)).extractLsb' (8 * k) 8 = s.pointX (4 * m + k)) ∧
    (∀ r < 16, ∀ m < 8, ∀ k < 4,
      (s.windowWord (0x800 + 32 * r + 4 * m)).extractLsb' (8 * k) 8 = pyAt s r (4 * m + k)) ∧
    (∀ m < 8, ∀ v : Word, s.windowWord (0x400 + 4 * m) = s.windowWord (0x100 + 4 * m) ∧
      s.hostWrite (0x400 + 4 * m) v = s.hostWrite (0x100 + 4 * m) v) ∧
    (∀ j, s.coefByte 0 j = secretAt s j)

/-- 10_state.md section 2, R60 to R66, R72: an idle write other than to CMD and STATUS stores the location's
writable bits, keeps its other bits, and leaves every other location but the alias of R63, the store and the
phase alone. The access is a move of the model's event list (log 1). -/
def Obligations.WritesReadBackAndLeaveTheRest : Prop :=
  ∀ (s : State) (off : BitVec 12) (v : Word) (rest : List Event), s.phase = .idle →
    off.toNat % 4 = 0 → off ≠ 0x004 → off ≠ 0x008 →
    s.env.events = .access (.write off .word v) :: rest →
    ∃ t, step s = .next t ∧
      t.windowWord off.toNat =
        (v &&& writableMask off.toNat) ||| (s.windowWord off.toNat &&& ~~~(writableMask off.toNat)) ∧
      (∀ off' : BitVec 12, off'.toNat % 4 = 0 → off' ≠ off → ¬ aliased off.toNat off'.toNat →
        t.windowWord off'.toNat = s.windowWord off'.toNat) ∧
      t.phase = .idle ∧ t.store = s.store ∧ t.env = { s.env with events := rest }

/-- R42, R66: a reserved offset reads 0 and ignores writes while idle; while busy a write there still sets
OVR. -/
def Obligations.ReservedOffsetsReadZeroAndIgnoreWrites : Prop :=
  ∀ (s : State) (off : Nat) (v : Word), reservedOffset off → off % 4 = 0 →
    s.windowWord off = 0 ∧ (s.phase = .idle → s.hostWrite off v = s) ∧
    (∀ w, s.phase = .busy w → s.hostWrite off v = { s with ovr := true })

/-- R28: a STATUS write clears DONE, ERR and OVR where it writes 1; ERRCODE and everything else keep their
values. The access is a move of the model's event list (log 1). -/
def Obligations.StatusWriteClearsWrittenBits : Prop :=
  ∀ (s : State) (v : Word) (rest : List Event), s.phase = .idle →
    s.env.events = .access (.write 0x008 .word v) :: rest →
    step s = .next
      { popped s rest with
        done := if v.getLsbD 1 then false else s.done
        err := if v.getLsbD 2 then false else s.err
        ovr := if v.getLsbD 3 then false else s.ovr }

/-- R193, R194: IRQ is CTRL.IE and DONE; it is up at every completion with IE set, with or without an error,
and falls at the next issue, at a write of 1 to DONE and at a write of 0 to IE. -/
def Obligations.IrqIsEnabledCompletion : Prop :=
  (∀ s : State, s.irq = true ↔ s.ie = true ∧ s.done = true) ∧
  (∀ (i : Instr) (s t : State), exec i s = .next t → (t.irq = true ↔ s.ie = true)) ∧
  (∀ (s : State) (w : Word), s.phase = .idle → (s.hostWrite 0x004 w).irq = false) ∧
  (∀ (s : State) (v : Word), s.phase = .idle → v.getLsbD 1 = true → (s.hostWrite 0x008 v).irq = false) ∧
  (∀ (s : State) (v : Word), s.phase = .idle → (s.hostWrite 0x010 v).irq = (v.getLsbD 0 && s.done))

/-! ### All commands -/

/-- R191: a command that completes with an error changes nothing but DONE, ERR, ERRCODE and ERRINFO (and the
phase), and consumes no draws. -/
def Obligations.ErrorChangesNothingButTheReport : Prop :=
  ∀ (i : Instr) (s t : State), s.err = false → exec i s = .next t → t.err = true →
    t = { s with
      err := true, errcode := t.errcode, errindex := t.errindex, errgroup := t.errgroup, done := true
      phase := .idle }

/-- R190, R214, R27, R28, R30: every command completes, the unit idle and DONE set; it writes neither CMD nor
CTRL nor OVR; from a clear report it leaves ERR and ERRCODE both zero or both set. -/
def Obligations.EveryCommandCompletes : Prop :=
  ∀ (i : Instr) (s : State), ∃ t, exec i s = .next t ∧ t.phase = .idle ∧ t.done = true ∧
    t.cmd = s.cmd ∧ t.ie = s.ie ∧ t.ovr = s.ovr ∧ t.env.events = s.env.events ∧
    t.env.replies = s.env.replies ∧
    (s.err = false → s.errcode = 0 → s.errindex = 0 → s.errgroup = 0 →
      (t.err = true ∧ t.errcode ≠ 0) ∨
        (t.err = false ∧ t.errcode = 0 ∧ t.errindex = 0 ∧ t.errgroup = 0))

/-- R188: a command reports only the errors its row of the "raised by" column gives it. -/
def Obligations.ErrorCodesByCommand : Prop :=
  ∀ (i : Instr) (s t : State), s.err = false → exec i s = .next t → t.err = true →
    t.errcode ∈ raisedBy i

/-- R31 to R41, R50 and the command rules of files 40 to 48: which commands may write which register or
buffer, and which draw. -/
def Obligations.OnlyNamedCommandsWrite : Prop :=
  ∀ (i : Instr) (s t : State), exec i s = .next t → i ≠ .zeroize →
    ((∀ a b, i ≠ .gfAdd a b) → (∀ a b, i ≠ .gfMul a b) → (∀ a, i ≠ .gfInv a) →
      (∀ c, i ≠ .ckVerify c) → (∀ k, i ≠ .wlIndex k) → t.result = s.result) ∧
    (i ≠ .mnDecode → (∀ p, i ≠ .ssDecode p) → i ≠ .ssRecover → t.len = s.len) ∧
    (i ≠ .mnEncode → i ≠ .ssEncode → i ≠ .dgFromdigits → t.wcount = s.wcount) ∧
    (i ≠ .dgTodigits → t.dcount = s.dcount ∧ t.digits = s.digits) ∧
    ((∀ a n, i ≠ .shSplit a n) → t.npts = s.npts) ∧
    (i ≠ .ckCompute → t.cksum = s.cksum) ∧
    ((∀ p, i ≠ .ssDecode p) → i ≠ .ssClear → t.store = s.store) ∧
    ((∀ k, i ≠ .wlWord k) → t.wt = s.wt) ∧
    ((∀ p, i ≠ .ssDecode p) → i ≠ .ssGenid → t.shf = s.shf) ∧
    ((∀ p, i ≠ .ssDecode p) → (∀ k, i ≠ .shLoadpt k) → (∀ a, i ≠ .shInterp a) → i ≠ .mnDecode →
      i ≠ .ssRecover → t.secret = s.secret) ∧
    (i ≠ .mnEncode → i ≠ .ssEncode → i ≠ .dgFromdigits → (∀ k, i ≠ .wlIndex k) → t.words = s.words) ∧
    ((∀ a, i ≠ .shGencoef a) → (∀ a n, i ≠ .shSplit a n) → t.coef = s.coef) ∧
    ((∀ a x k, i ≠ .shEval a x k) → (∀ a n, i ≠ .shSplit a n) → (∀ x k, i ≠ .shStorept x k) →
      t.px = s.px ∧ t.py = s.py) ∧
    ((∀ a, i ≠ .shGencoef a) → (∀ a n, i ≠ .shSplit a n) → i ≠ .ssGenid → t.env = s.env)

/-! ### Control -/

/-- R186: ZEROIZE applies the reset values everywhere but in CTRL.IE, CMD and OVR, completes with DONE set,
and draws nothing. -/
def Obligations.ZeroizeAppliesResetValues : Prop :=
  EncodesAs 0x7F 0xFF 0xFF 0xFF (fun _ _ _ => .zeroize) ∧
  ∀ s : State, exec .zeroize s = .next
    { State.reset with ie := s.ie, cmd := s.cmd, ovr := s.ovr, env := s.env, done := true }

/-! ### The field -/

/-- R128: GF.ADD's encoding, its result, the bitwise XOR zero-extended, and its corner cases. -/
def Obligations.GfAddWritesTheXor : Prop :=
  EncodesAs 0x01 0x00 0x00 0xFF (fun a b _ => .gfAdd a b) ∧
  (∀ (a b : Byte) (s : State), exec (.gfAdd a b) s =
    .next { s with result := (a ^^^ b).setWidth 32, done := true, phase := .idle }) ∧
  (∀ (a : Byte) (s t : State), exec (.gfAdd a a) s = .next t → t.result = 0) ∧
  (∀ (a : Byte) (s t : State), exec (.gfAdd a 0) s = .next t → t.result = a.setWidth 32)

/-- R129: GF.MUL's encoding, its result and its corner cases. -/
def Obligations.GfMulWritesTheProduct : Prop :=
  EncodesAs 0x02 0x00 0x00 0xFF (fun a b _ => .gfMul a b) ∧
  (∀ (a b : Byte) (s : State), exec (.gfMul a b) s =
    .next { s with result := (gmul a b).setWidth 32, done := true, phase := .idle }) ∧
  (∀ a : Byte, gmul a 0 = 0 ∧ gmul 0 a = 0 ∧ gmul a 1 = a ∧ gmul 1 a = a) ∧
  gmul 0x02 0x80 = 0x1B ∧ gmul 0x57 0x83 = 0xC1

/-- R130: GF.INV writes the inverse, and 0 raises DivideByZeroError with RESULT kept. -/
def Obligations.GfInvWritesTheInverse : Prop :=
  EncodesAs 0x03 0x00 0xFF 0xFF (fun a _ _ => .gfInv a) ∧
  (∀ (a : Byte) (s : State), a ≠ 0 → gmul a (ginv a) = 1 ∧
    exec (.gfInv a) s = .next { s with result := (ginv a).setWidth 32, done := true, phase := .idle }) ∧
  (∀ s : State, Reports (.gfInv 0) s 0x04 0 0) ∧
  ginv 1 = 1 ∧ ginv 0x53 = 0xCA ∧ (∀ a : Byte, a ≠ 0 → ginv (ginv a) = a)

/-- R125 with R122 and R123: `gmul` is the product of the polynomials modulo POLY. -/
def Obligations.GmulIsTheProductModuloPoly : Prop :=
  ∀ a b : Byte, bytePoly (gmul a b) = (bytePoly a * bytePoly b) %ₘ polyModulus

/-- R132 to R135: commutativity, associativity, identities, self-inverse addition, distributivity, unique
inverses, the cyclic group of order 255, and no zero divisors. -/
def Obligations.FieldLawsHold : Prop :=
  (∀ a b : Byte, gadd a b = gadd b a ∧ gmul a b = gmul b a) ∧
  (∀ a b c : Byte, gadd (gadd a b) c = gadd a (gadd b c) ∧ gmul (gmul a b) c = gmul a (gmul b c)) ∧
  (∀ a : Byte, gadd a 0 = a ∧ gmul a 1 = a ∧ gmul a 0 = 0 ∧ gadd a a = 0) ∧
  (∀ a b c : Byte, gmul a (gadd b c) = gadd (gmul a b) (gmul a c)) ∧
  (∀ a : Byte, a ≠ 0 → gmul a (ginv a) = 1 ∧ ginv a = gpow a 254 ∧ gpow a 255 = 1 ∧
    ∀ b : Byte, gmul a b = 1 → b = ginv a) ∧
  (∃ g : Byte, ∀ a : Byte, a ≠ 0 → ∃ k < 255, gpow g k = a) ∧
  (∀ a b : Byte, gmul a b = 0 ↔ a = 0 ∨ b = 0)

/-- R127, R136: the powers of 0x03 give every nonzero product by adding exponents modulo 255; 0x03 has order
255 and is the smallest such element, 0x02 has order 51, and 128 elements have order 255. -/
def Obligations.GeneratorTablesGiveTheProduct : Prop :=
  (∀ a : Byte, a ≠ 0 → ∃ i < 255, gpow 3 i = a ∧ ∀ k < 255, gpow 3 k = a → k = i) ∧
  (∀ i < 255, ∀ j < 255, gmul (gpow 3 i) (gpow 3 j) = gpow 3 ((i + j) % 255)) ∧
  (gpow 2 51 = 1 ∧ ∀ k, 0 < k → k < 51 → gpow 2 k ≠ 1) ∧
  (∀ a : Byte, a.toNat < 3 → a ≠ 0 → ∃ k, 0 < k ∧ k < 255 ∧ gpow a k = 1) ∧
  ((Finset.univ : Finset Byte).filter fun a =>
    a ≠ 0 ∧ gpow a 255 = 1 ∧ ∀ k ∈ List.range 255, k ≠ 0 → gpow a k ≠ 1).card = 128

/-! ### Shamir -/

/-- R139: Horner's rule equals the sum of R138. -/
def Obligations.HornerEqualsThePolynomialSum : Prop :=
  ∀ (s : State) (t : Nat) (x : Byte) (j : Nat), s.peval t x j = polyAt (fun k => s.coefByte k j) t x

/-- R140 with R138: SH.EVAL. -/
def Obligations.ShEvalWritesTheShare : Prop :=
  EncodesAs 0x10 0x00 0x00 0x00 (fun t x slot => .shEval t x slot) ∧
  ∀ (t x slot : Byte) (s : State),
    (¬ (1 ≤ t.toNat ∧ t.toNat ≤ 16) → RefusesParam (.shEval t x slot) s 0x01) ∧
    (1 ≤ t.toNat → t.toNat ≤ 16 → x = 0 → RefusesParam (.shEval t x slot) s 0x02) ∧
    (1 ≤ t.toNat → t.toNat ≤ 16 → x ≠ 0 → 15 < slot.toNat → RefusesParam (.shEval t x slot) s 0x03) ∧
    (1 ≤ t.toNat → t.toNat ≤ 16 → x ≠ 0 → slot.toNat ≤ 15 → ¬ (1 ≤ s.byteLen ∧ s.byteLen ≤ 32) →
      RefusesParam (.shEval t x slot) s 0x10) ∧
    (1 ≤ t.toNat → t.toNat ≤ 16 → x ≠ 0 → slot.toNat ≤ 15 → 1 ≤ s.byteLen → s.byteLen ≤ 32 →
      ∃ u, exec (.shEval t x slot) s = .next u ∧
        (∀ k < 16, u.pointX k = if k = slot.toNat then x else s.pointX k) ∧
        (∀ k < 16, ∀ j < 32, pyAt u k j =
          if k = slot.toNat ∧ j < s.byteLen then polyAt (fun r => s.coefByte r j) t.toNat x
          else pyAt s k j) ∧
        u = { s with px := u.px, py := u.py, done := true, phase := .idle })

/-- R141: SH.GENCOEF. Draws come from the model's supply, then free bytes (log 3). -/
def Obligations.ShGencoefDrawsTheRows : Prop :=
  EncodesAs 0x11 0x00 0xFF 0xFF (fun t _ _ => .shGencoef t) ∧
  ∀ (t : Byte) (s : State),
    (¬ (1 ≤ t.toNat ∧ t.toNat ≤ 16) → RefusesParam (.shGencoef t) s 0x01) ∧
    (1 ≤ t.toNat → t.toNat ≤ 16 → ¬ (1 ≤ s.byteLen ∧ s.byteLen ≤ 32) →
      RefusesParam (.shGencoef t) s 0x10) ∧
    (1 ≤ t.toNat → t.toNat ≤ 16 → 1 ≤ s.byteLen → s.byteLen ≤ 32 →
      ∃ u, exec (.shGencoef t) s = .next u ∧
        (∀ k < 16, ∀ j < 32, u.coefByte k j = drawnCoef s t.toNat s.byteLen k j) ∧
        u = { s with
          coef := u.coef, env := drained s.env ((t.toNat - 1) * s.byteLen), done := true
          phase := .idle })

/-- R142: SH.SPLIT. Draws come from the model's supply, then free bytes (log 3). -/
def Obligations.ShSplitWritesTheShares : Prop :=
  EncodesAs 0x12 0x00 0x00 0xFF (fun t n _ => .shSplit t n) ∧
  ∀ (t n : Byte) (s : State),
    (¬ (1 ≤ t.toNat ∧ t.toNat ≤ 16) → RefusesParam (.shSplit t n) s 0x01) ∧
    (1 ≤ t.toNat → t.toNat ≤ 16 → (n.toNat < 1 ∨ 16 < n.toNat ∨ n.toNat < t.toNat) →
      RefusesParam (.shSplit t n) s 0x02) ∧
    (1 ≤ t.toNat → t.toNat ≤ n.toNat → n.toNat ≤ 16 → ¬ (1 ≤ s.byteLen ∧ s.byteLen ≤ 32) →
      RefusesParam (.shSplit t n) s 0x10) ∧
    (1 ≤ t.toNat → t.toNat ≤ n.toNat → n.toNat ≤ 16 → 1 ≤ s.byteLen → s.byteLen ≤ 32 →
      ∃ u, exec (.shSplit t n) s = .next u ∧
        (∀ k < 16, ∀ j < 32, u.coefByte k j = drawnCoef s t.toNat s.byteLen k j) ∧
        (∀ i < 16, (u.pointX i).toNat = if i < n.toNat then i + 1 else (s.pointX i).toNat) ∧
        (∀ i < 16, ∀ j < 32, pyAt u i j =
          if i < n.toNat ∧ j < s.byteLen then
            polyAt (fun k => drawnCoef s t.toNat s.byteLen k j) t.toNat (BitVec.ofNat 8 (i + 1))
          else pyAt s i j) ∧
        u.npts.toNat = n.toNat ∧
        u = { s with
          coef := u.coef, px := u.px, py := u.py, npts := u.npts
          env := drained s.env ((t.toNat - 1) * s.byteLen), done := true, phase := .idle })

/-- R143: SH.LOADPT. -/
def Obligations.ShLoadptMovesTheValue : Prop :=
  EncodesAs 0x14 0xFF 0xFF 0x00 (fun _ _ slot => .shLoadpt slot) ∧
  ∀ (slot : Byte) (s : State),
    (15 < slot.toNat → RefusesParam (.shLoadpt slot) s 0x03) ∧
    (slot.toNat ≤ 15 → ¬ (1 ≤ s.byteLen ∧ s.byteLen ≤ 32) → RefusesParam (.shLoadpt slot) s 0x10) ∧
    (slot.toNat ≤ 15 → 1 ≤ s.byteLen → s.byteLen ≤ 32 →
      ∃ u, exec (.shLoadpt slot) s = .next u ∧
        (∀ j < 32, secretAt u j = if j < s.byteLen then pyAt s slot.toNat j else secretAt s j) ∧
        u = { s with secret := u.secret, done := true, phase := .idle })

/-- R144: SH.STOREPT; any x, 0 included. -/
def Obligations.ShStoreptPlacesThePoint : Prop :=
  EncodesAs 0x15 0xFF 0x00 0x00 (fun _ x slot => .shStorept x slot) ∧
  ∀ (x slot : Byte) (s : State),
    (15 < slot.toNat → RefusesParam (.shStorept x slot) s 0x03) ∧
    (slot.toNat ≤ 15 → ¬ (1 ≤ s.byteLen ∧ s.byteLen ≤ 32) →
      RefusesParam (.shStorept x slot) s 0x10) ∧
    (slot.toNat ≤ 15 → 1 ≤ s.byteLen → s.byteLen ≤ 32 →
      ∃ u, exec (.shStorept x slot) s = .next u ∧
        (∀ k < 16, u.pointX k = if k = slot.toNat then x else s.pointX k) ∧
        (∀ k < 16, ∀ j < 32, pyAt u k j =
          if k = slot.toNat ∧ j < s.byteLen then secretAt s j else pyAt s k j) ∧
        u = { s with px := u.px, py := u.py, done := true, phase := .idle })

/-- R147 with R145, R146: SH.INTERP, its errors in order and its result. -/
def Obligations.ShInterpInterpolatesAtZero : Prop :=
  EncodesAs 0x13 0x00 0xFF 0xFF (fun t _ _ => .shInterp t) ∧
  ∀ (t : Byte) (s : State),
    (¬ (1 ≤ t.toNat ∧ t.toNat ≤ 16) → RefusesParam (.shInterp t) s 0x01) ∧
    (1 ≤ t.toNat → t.toNat ≤ 16 → 16 < s.npts.toNat → RefusesParam (.shInterp t) s 0x13) ∧
    (1 ≤ t.toNat → t.toNat ≤ 16 → s.npts.toNat ≤ 16 → ¬ (1 ≤ s.byteLen ∧ s.byteLen ≤ 32) →
      RefusesParam (.shInterp t) s 0x10) ∧
    (1 ≤ t.toNat → t.toNat ≤ 16 → s.npts.toNat ≤ 16 → 1 ≤ s.byteLen → s.byteLen ≤ 32 →
      (∀ k < s.npts.toNat, conflictsAt s k → (∀ m < k, ¬ conflictsAt s m) →
        Reports (.shInterp t) s 0x06 k 0) ∧
      ((∀ k < s.npts.toNat, ¬ conflictsAt s k) → (freshSlots s).length < t.toNat →
        Reports (.shInterp t) s 0x05 (freshSlots s).length 0) ∧
      ((∀ k < s.npts.toNat, ¬ conflictsAt s k) → t.toNat ≤ (freshSlots s).length →
        ∃ u, exec (.shInterp t) s = .next u ∧
          (∀ j < 32, secretAt u j =
            if j < s.byteLen then
              lagrangeAtZero (((freshSlots s).take t.toNat).map fun k => (s.pointX k, pyAt s k j))
            else secretAt s j) ∧
          u = { s with secret := u.secret, done := true, phase := .idle }))

/-- R148: points of one polynomial per byte, at nonzero x, rebuild the secret whenever at least t distinct x
are among them, in any order and with repeats; fewer distinct x give InsufficientSharesError. `s` is the
state the points were made in, `v` the state SH.INTERP runs in. -/
def Obligations.AnyThresholdOfPointsRebuildsTheSecret : Prop :=
  ∀ (s v : State) (t : Byte), 1 ≤ t.toNat → t.toNat ≤ 16 → v.len = s.len → 1 ≤ s.byteLen →
    s.byteLen ≤ 32 → v.npts.toNat ≤ 16 →
    (∀ k < v.npts.toNat, v.pointX k ≠ 0 ∧
      ∀ j < s.byteLen, pyAt v k j = s.peval t.toNat (v.pointX k) j) →
    (t.toNat ≤ ((List.range v.npts.toNat).map v.pointX).toFinset.card →
      ∃ u, exec (.shInterp t) v = .next u ∧
        (∀ j < 32, secretAt u j = if j < s.byteLen then secretAt s j else secretAt v j) ∧
        u = { v with secret := u.secret, done := true, phase := .idle }) ∧
    (((List.range v.npts.toNat).map v.pointX).toFinset.card < t.toNat →
      Reports (.shInterp t) v 0x05 ((List.range v.npts.toNat).map v.pointX).toFinset.card 0)

/-! ### Checksum and mnemonic -/

/-- R109: for every length of CK_LENS the checksum is the top `L/4` bits of the digest's first byte. -/
def Obligations.ChecksumIsTheLeadingDigestBits : Prop :=
  ∀ e : List Byte, e.length ∈ [4, 8, 12, 16, 20, 24, 28, 32] →
    (sha256 e).length = 32 ∧ cs e = ((sha256 e).getD 0 0).toNat / 2 ^ (8 - e.length / 4) ∧
    cs e < 2 ^ (e.length / 4)

/-- R111: CK.COMPUTE. -/
def Obligations.CkComputeWritesTheChecksum : Prop :=
  EncodesAs 0x20 0xFF 0xFF 0xFF (fun _ _ _ => .ckCompute) ∧
  ∀ s : State,
    (s.byteLen ∉ [4, 8, 12, 16, 20, 24, 28, 32] → RefusesParam .ckCompute s 0x10) ∧
    (s.byteLen ∈ [4, 8, 12, 16, 20, 24, 28, 32] →
      ∃ u, exec .ckCompute s = .next u ∧
        u.cksum.toNat = cs ((List.range s.byteLen).map (secretAt s)) ∧
        u = { s with cksum := u.cksum, done := true, phase := .idle })

/-- R112: CK.VERIFY answers 1 or 0 and raises no error for a mismatch. -/
def Obligations.CkVerifyAnswersOneOrZero : Prop :=
  EncodesAs 0x21 0x00 0xFF 0xFF (fun c _ _ => .ckVerify c) ∧
  ∀ (c : Byte) (s : State),
    (s.byteLen ∉ [4, 8, 12, 16, 20, 24, 28, 32] → RefusesParam (.ckVerify c) s 0x10) ∧
    (s.byteLen ∈ [4, 8, 12, 16, 20, 24, 28, 32] →
      ∃ u, exec (.ckVerify c) s = .next u ∧
        (c.toNat = cs ((List.range s.byteLen).map (secretAt s)) → u.result = 1) ∧
        (c.toNat ≠ cs ((List.range s.byteLen).map (secretAt s)) → u.result = 0) ∧
        (2 ^ (s.byteLen / 4) ≤ c.toNat → u.result = 0) ∧
        u = { s with result := u.result, done := true, phase := .idle })

/-- R117 with R115: MN.ENCODE, bit by bit. -/
def Obligations.MnEncodeWritesTheMnemonic : Prop :=
  EncodesAs 0x30 0xFF 0xFF 0xFF (fun _ _ _ => .mnEncode) ∧
  ∀ s : State,
    (s.byteLen ∉ [16, 20, 24, 28, 32] → RefusesParam .mnEncode s 0x10) ∧
    (s.byteLen ∈ [16, 20, 24, 28, 32] →
      ∃ u, exec .mnEncode s = .next u ∧ u.wcount.toNat = 3 * s.byteLen / 4 ∧
        (∀ i < 3 * s.byteLen / 4, ∀ b < 11, (wordAt u i).getLsbD b =
          mnemonicBit ((List.range s.byteLen).map (secretAt s)) (11 * i + (10 - b))) ∧
        (∀ i < 32, 3 * s.byteLen / 4 ≤ i → wordAt u i = wordAt s i) ∧
        u = { s with words := u.words, wcount := u.wcount, done := true, phase := .idle })

/-- R118: MN.DECODE; `e` is the entropy the words spell. -/
def Obligations.MnDecodeChecksAndWritesTheEntropy : Prop :=
  EncodesAs 0x31 0xFF 0xFF 0xFF (fun _ _ _ => .mnDecode) ∧
  ∀ s : State,
    (s.wordCount ∉ [12, 15, 18, 21, 24] → Reports .mnDecode s 0x02 s.wordCount 0) ∧
    (s.wordCount ∈ [12, 15, 18, 21, 24] → ∀ e : List Byte, e.length = 4 * s.wordCount / 3 →
      (∀ j < e.length, ∀ b < 8, (e.getD j 0).getLsbD b = wordsBit s (8 * j + (7 - b))) →
      (wordsField s (8 * e.length) (11 * s.wordCount) ≠ cs e →
        Reports .mnDecode s 0x03 (s.wordCount - 1) 0) ∧
      (wordsField s (8 * e.length) (11 * s.wordCount) = cs e →
        ∃ u, exec .mnDecode s = .next u ∧ u.len.toNat = e.length ∧
          (∀ j < 32, secretAt u j = if j < e.length then e.getD j 0 else secretAt s j) ∧
          u = { s with secret := u.secret, len := u.len, done := true, phase := .idle }))

/-- R119: MN.ENCODE then MN.DECODE restores the entropy whatever else happened in between, and what
MN.DECODE accepts MN.ENCODE writes again. -/
def Obligations.MnemonicRoundTrip : Prop :=
  (∀ s u v : State, s.byteLen ∈ [16, 20, 24, 28, 32] → exec .mnEncode s = .next u →
    v.words = u.words → v.wcount = u.wcount →
    ∃ w, exec .mnDecode v = .next w ∧ w.len = s.len ∧
      (∀ j < 32, secretAt w j = if j < s.byteLen then secretAt s j else secretAt v j) ∧
      w = { v with secret := w.secret, len := w.len, done := true, phase := .idle }) ∧
  (∀ s u : State, s.err = false → exec .mnDecode s = .next u → u.err = false →
    ∃ w, exec .mnEncode u = .next w ∧ w.words = s.words ∧ w.wcount = s.wcount)

/-! ### Word list and digits -/

/-- R105 with R103, R104: WL.INDEX. That it writes `WORDS[slot]` at a slot at or above WCOUNT too is the model's
reading, R105 followed against R44 (log 26). -/
def Obligations.WlIndexFindsTheWord : Prop :=
  EncodesAs 0x38 0xFF 0xFF 0x00 (fun _ _ slot => .wlIndex slot) ∧
  ∀ (slot : Byte) (s : State),
    (31 < slot.toNat → RefusesParam (.wlIndex slot) s 0x03) ∧
    (slot.toNat ≤ 31 →
      (∀ i : WordIndex, (∀ k < 8, lower (s.wt.getD k 0) = (Config.wordList.word i).getD k 0) →
        ∃ u, exec (.wlIndex slot) s = .next u ∧ u.result.toNat = i.toNat ∧
          (∀ j < 32, wordAt u j = if j = slot.toNat then i else wordAt s j) ∧
          u = { s with result := u.result, words := u.words, done := true, phase := .idle }) ∧
      ((∀ i : WordIndex, ∃ k < 8, lower (s.wt.getD k 0) ≠ (Config.wordList.word i).getD k 0) →
        Reports (.wlIndex slot) s 0x01 slot.toNat 0))

/-- R106: WL.WORD. -/
def Obligations.WlWordWritesTheText : Prop :=
  EncodesAs 0x39 0xFF 0xFF 0x00 (fun _ _ slot => .wlWord slot) ∧
  ∀ (slot : Byte) (s : State),
    (31 < slot.toNat → RefusesParam (.wlWord slot) s 0x03) ∧
    (slot.toNat ≤ 31 → ∃ u, exec (.wlWord slot) s = .next u ∧
      (∀ k < 8, u.wt.getD k 0 = (Config.wordList.word (wordAt s slot.toNat)).getD k 0) ∧
      u = { s with wt := u.wt, done := true, phase := .idle })

/-- R107: WL.WORD then WL.INDEX gives the index back, and WL.INDEX then WL.WORD the case-folded text. Both clauses
use that WL.INDEX writes `WORDS[slot]` whatever WCOUNT is, which is the model's reading, R105 followed against R44
(log 26). -/
def Obligations.WordLookupsAreInverse : Prop :=
  (∀ (a b : Byte) (s u : State), a.toNat ≤ 31 → b.toNat ≤ 31 → exec (.wlWord a) s = .next u →
    ∃ v, exec (.wlIndex b) u = .next v ∧ v.result.toNat = (wordAt s a.toNat).toNat ∧
      wordAt v b.toNat = wordAt s a.toNat ∧ v.err = s.err) ∧
  (∀ (a : Byte) (s u : State), a.toNat ≤ 31 → s.err = false → exec (.wlIndex a) s = .next u →
    u.err = false → ∃ v, exec (.wlWord a) u = .next v ∧ ∀ k < 8, v.wt.getD k 0 = lower (s.wt.getD k 0))

/-- R170 with R169: DG.TODIGITS. -/
def Obligations.DgTodigitsWritesFourDigits : Prop :=
  EncodesAs 0x40 0xFF 0xFF 0xFF (fun _ _ _ => .dgTodigits) ∧
  ∀ s : State,
    (32 < s.wordCount → RefusesParam .dgTodigits s 0x11) ∧
    (s.wordCount ≤ 32 → ∃ u, exec .dgTodigits s = .next u ∧ u.dcount.toNat = 4 * s.wordCount ∧
      (∀ i < s.wordCount, ∀ k < 4,
        (digitAt u (4 * i + k)).toNat = 0x30 + (wordAt s i).toNat / 10 ^ (3 - k) % 10) ∧
      (∀ j < 128, 4 * s.wordCount ≤ j → digitAt u j = digitAt s j) ∧
      u = { s with digits := u.digits, dcount := u.dcount, done := true, phase := .idle })

/-- R171: DG.FROMDIGITS. The word at position `i` is bad by a character that is no digit (sub-code 2), or by
a value above 2047 (sub-code 3); the first bad position decides. -/
def Obligations.DgFromdigitsParsesOrReports : Prop :=
  EncodesAs 0x41 0xFF 0xFF 0xFF (fun _ _ _ => .dgFromdigits) ∧
  ∀ s : State,
    let d := s.dcount.toNat
    let digit := fun i k => (digitAt s (4 * i + k)).toNat
    let allDigits := fun i => ∀ k < 4, 0x30 ≤ digit i k ∧ digit i k ≤ 0x39
    let value := fun i => 1000 * (digit i 0 - 0x30) + 100 * (digit i 1 - 0x30) +
      10 * (digit i 2 - 0x30) + (digit i 3 - 0x30)
    (d % 4 ≠ 0 ∨ 128 < d → Reports .dgFromdigits s 0x0B d 1) ∧
    (d % 4 = 0 → d ≤ 128 →
      (∀ i < d / 4, (∀ m < i, allDigits m ∧ value m ≤ 2047) → ¬ allDigits i →
        Reports .dgFromdigits s 0x0B i 2) ∧
      (∀ i < d / 4, (∀ m < i, allDigits m ∧ value m ≤ 2047) → allDigits i → 2047 < value i →
        Reports .dgFromdigits s 0x0B i 3) ∧
      ((∀ i < d / 4, allDigits i ∧ value i ≤ 2047) →
        ∃ u, exec .dgFromdigits s = .next u ∧ u.wcount.toNat = d / 4 ∧
          (∀ i < d / 4, (wordAt u i).toNat = value i) ∧
          (∀ i < 32, d / 4 ≤ i → wordAt u i = wordAt s i) ∧
          u = { s with words := u.words, wcount := u.wcount, done := true, phase := .idle }))

/-- R172: DG.TODIGITS then DG.FROMDIGITS restores the words, and what DG.FROMDIGITS accepts DG.TODIGITS
writes again. -/
def Obligations.DigitRoundTrip : Prop :=
  (∀ s u v : State, s.wordCount ≤ 32 → exec .dgTodigits s = .next u → v.digits = u.digits →
    v.dcount = u.dcount →
    ∃ w, exec .dgFromdigits v = .next w ∧ w.wcount = s.wcount ∧
      (∀ i < 32, wordAt w i = if i < s.wordCount then wordAt s i else wordAt v i) ∧
      w = { v with words := w.words, wcount := w.wcount, done := true, phase := .idle }) ∧
  (∀ s u : State, s.err = false → exec .dgFromdigits s = .next u → u.err = false →
    ∃ w, exec .dgTodigits u = .next w ∧ w.digits = s.digits ∧ w.dcount = s.dcount)

/-! ### Shares -/

/-- R157 with R153: SS.ENCODE, bit by bit, and its checks in order. The bit positions for 24, 28 and 32 bytes are
those of the formula, which R155's table contradicts: that is the model's reading (log 23). -/
def Obligations.SsEncodeWritesTheShare : Prop :=
  EncodesAs 0x50 0xFF 0xFF 0xFF (fun _ _ _ => .ssEncode) ∧
  ∀ s : State,
    let lenOk := s.byteLen ∈ [16, 20, 24, 28, 32]
    let gcOk := 1 ≤ s.shf.gc.toNat ∧ s.shf.gc.toNat ≤ 16
    let gtOk := 1 ≤ s.shf.gt.toNat ∧ s.shf.gt.toNat ≤ 16
    let mtOk := 1 ≤ s.shf.mt.toNat ∧ s.shf.mt.toNat ≤ 16
    let giOk := s.shf.gi.toNat < s.shf.gc.toNat
    (¬ lenOk → RefusesParam .ssEncode s 0x10) ∧
    (lenOk → ¬ gcOk → RefusesParam .ssEncode s 0x23) ∧
    (lenOk → gcOk → ¬ gtOk → RefusesParam .ssEncode s 0x22) ∧
    (lenOk → gcOk → gtOk → ¬ mtOk → RefusesParam .ssEncode s 0x25) ∧
    (lenOk → gcOk → gtOk → mtOk → ¬ giOk → RefusesParam .ssEncode s 0x21) ∧
    (lenOk → gcOk → gtOk → mtOk → giOk → s.shf.gc.toNat < s.shf.gt.toNat →
      RefusesParam .ssEncode s 0x22) ∧
    (encodable s → ∃ u, exec .ssEncode s = .next u ∧ u.wcount.toNat = 7 + 3 * s.byteLen / 4 ∧
      (∀ i < 7 + 3 * s.byteLen / 4, ∀ b < 11, (wordAt u i).getLsbD b =
        shareBit s.shf ((List.range s.byteLen).map (secretAt s)) (11 * i + (10 - b))) ∧
      (∀ i < 32, 7 + 3 * s.byteLen / 4 ≤ i → wordAt u i = wordAt s i) ∧
      u = { s with words := u.words, wcount := u.wcount, done := true, phase := .idle })

/-- R158: SS.DECODE, its errors in order and what it writes, with PUSH 0 and 1. The message length `n` for 24, 28 and
32 bytes is the formula's, which R155's table contradicts: that is the model's reading (log 23). -/
def Obligations.SsDecodeChecksAndLoadsTheShare : Prop :=
  EncodesAs 0x51 0xFE 0xFF 0xFF (fun p _ _ => .ssDecode p) ∧
  ∀ (p : Byte) (s : State), p = 0 ∨ p = 1 →
    let w := s.wordCount
    let l := 4 * (w - 7) / 3
    let n := 44 + l / 4 + 8 * l
    let crcOk := wordsBit s n = false ∧
      wordsField s (n + 1) (n + 33) = (crc32 ((List.range n).map (wordsBit s))).toNat
    let padOk := wordsField s 40 (44 + l / 4) = 0
    let gi := wordsField s 20 24
    let gt := wordsField s 24 28 + 1
    let gc := wordsField s 28 32 + 1
    (w ∉ [19, 22, 25, 28, 31] → Reports (.ssDecode p) s 0x02 w 0) ∧
    (w ∈ [19, 22, 25, 28, 31] →
      (¬ crcOk → Reports (.ssDecode p) s 0x07 s.store.length 1) ∧
      (crcOk → ¬ padOk → Reports (.ssDecode p) s 0x07 s.store.length 2) ∧
      (crcOk → padOk → gc ≤ gi → Reports (.ssDecode p) s 0x07 s.store.length 3) ∧
      (crcOk → padOk → gi < gc → gc < gt → Reports (.ssDecode p) s 0x07 s.store.length 4) ∧
      (crcOk → padOk → gi < gc → gt ≤ gc →
        (p = 1 → s.store.length = 256 → Reports (.ssDecode p) s 0x82 256 0) ∧
        ((p = 1 → s.store.length < 256) →
          ∃ u, exec (.ssDecode p) s = .next u ∧
            u.shf.id.toNat = wordsField s 0 15 ∧ u.shf.ie.toNat = wordsField s 15 20 ∧
            u.shf.gi.toNat = gi ∧ u.shf.gt.toNat = gt ∧ u.shf.gc.toNat = gc ∧
            u.shf.mi.toNat = wordsField s 32 36 ∧ u.shf.mt.toNat = wordsField s 36 40 + 1 ∧
            u.len.toNat = l ∧
            (∀ j < l, ∀ b < 8, (secretAt u j).getLsbD b =
              wordsBit s (44 + l / 4 + 8 * j + (7 - b))) ∧
            (∀ j < 32, l ≤ j → secretAt u j = secretAt s j) ∧
            u.store = (if p = 1 then s.store ++ [⟨u.shf, (List.range l).map (secretAt u)⟩]
              else s.store) ∧
            u = { s with
              shf := u.shf, secret := u.secret, len := u.len, store := u.store, done := true
              phase := .idle })))

/-- R157, R158: a share SS.ENCODE writes is decoded to the fields and the value it was made from, whatever
else happened in between, and pushed as such. -/
def Obligations.ShareRoundTrip : Prop :=
  ∀ (s u v : State) (p : Byte), encodable s → exec .ssEncode s = .next u → v.words = u.words →
    v.wcount = u.wcount → p = 0 ∨ p = 1 → (p = 1 → v.store.length < 256) →
    ∃ w, exec (.ssDecode p) v = .next w ∧ w.shf = s.shf ∧ w.len = s.len ∧
      (∀ j < 32, secretAt w j = if j < s.byteLen then secretAt s j else secretAt v j) ∧
      w.store = (if p = 1 then v.store ++ [⟨s.shf, (List.range s.byteLen).map (secretAt s)⟩]
        else v.store) ∧
      w = { v with
        shf := w.shf, secret := w.secret, len := w.len, store := w.store, done := true
        phase := .idle }

/-- R165, for words: a share of which one word was changed to any other value never decodes; it gives
CorruptShareError with the CRC sub-code. -/
def Obligations.ChangedWordIsDetected : Prop :=
  ∀ (s u v : State) (p : Byte) (k : Nat), encodable s → exec .ssEncode s = .next u →
    k < 7 + 3 * s.byteLen / 4 → (∀ i < 32, i ≠ k → wordAt v i = wordAt u i) →
    wordAt v k ≠ wordAt u k → v.wcount = u.wcount → p = 0 ∨ p = 1 →
    Reports (.ssDecode p) v 0x07 v.store.length 1

/-- R159, R185: SS.CLEAR empties the store and changes nothing else; NOP, the word 0, changes nothing at
all. -/
def Obligations.SsClearEmptiesTheStoreAndNopNothing : Prop :=
  EncodesAs 0x52 0xFF 0xFF 0xFF (fun _ _ _ => .ssClear) ∧
  EncodesAs 0x00 0xFF 0xFF 0xFF (fun _ _ _ => .nop) ∧
  (∀ s : State, exec .ssClear s = .next { s with store := [], done := true, phase := .idle }) ∧
  (∀ s : State, exec .nop s = .next { s with done := true, phase := .idle })

/-- R160: SS.GENID takes two draws and keeps 15 bits; every other field is unchanged. Draws come from the
model's supply, then free bytes (log 3). -/
def Obligations.SsGenidDrawsTheIdentifier : Prop :=
  EncodesAs 0x54 0xFF 0xFF 0xFF (fun _ _ _ => .ssGenid) ∧
  ∀ s : State, ∃ u, exec .ssGenid s = .next u ∧
    u.shf.id.toNat = ((drawAt s.env 0).toNat * 256 + (drawAt s.env 1).toNat) % 2 ^ 15 ∧
    u = { s with
      shf := { s.shf with id := u.shf.id }, env := drained s.env 2, done := true, phase := .idle }

/-- R162 with R161, R163: SS.RECOVER, its errors in order and its result. On a value of more than 63 bytes,
which no run stores (R50), LEN takes the length modulo 64: that clause is the model's choice (log 18). -/
def Obligations.SsRecoverRebuildsTheSecret : Prop :=
  EncodesAs 0x53 0xFF 0xFF 0xFF (fun _ _ _ => .ssRecover) ∧
  ∀ s : State,
    (s.store = [] → Reports .ssRecover s 0x08 0 0) ∧
    (∀ k < s.store.length, ∀ c, disagreement (entryAt s.store 0) (entryAt s.store k) = some c →
      (∀ m < k, disagreement (entryAt s.store 0) (entryAt s.store m) = none) →
      Reports .ssRecover s 0x09 k c) ∧
    (s.store ≠ [] → storeAgrees s.store →
      (∀ g < 16, (∀ g' < g, groupClean s.store g') →
        (∀ k ∈ groupSlots s.store g, (entryAt s.store k).fields.mt.toNat ≠ groupMt s.store g →
          (∀ m ∈ groupSlots s.store g, m < k →
            (entryAt s.store m).fields.mt.toNat = groupMt s.store g) →
          Reports .ssRecover s 0x09 k 6) ∧
        (groupAgrees s.store g → ∀ k ∈ groupSlots s.store g, memberConflict s.store g k →
          (∀ m ∈ groupSlots s.store g, m < k → ¬ memberConflict s.store g m) →
          Reports .ssRecover s 0x06 k g)) ∧
      ((∀ g < 16, groupClean s.store g) →
        ((resolvedGroups s.store).length < (entryAt s.store 0).fields.gt.toNat →
          Reports .ssRecover s 0x08 (resolvedGroups s.store).length
            (entryAt s.store 0).fields.gt.toNat) ∧
        ((entryAt s.store 0).fields.gt.toNat ≤ (resolvedGroups s.store).length →
          ∃ u, exec .ssRecover s = .next u ∧
            u.len = BitVec.ofNat 6 (entryAt s.store 0).value.length ∧
            (∀ j < 32, secretAt u j =
              if j < (entryAt s.store 0).value.length then secretByte s.store j else secretAt s j) ∧
            u = { s with secret := u.secret, len := u.len, done := true, phase := .idle })))

/-- R164: shares of one two-level split, each group `g` with its own threshold `mts g`, recover the secret
exactly when at least GT groups have their threshold of distinct members; otherwise the report is
InsufficientGroupsError. `a k j` is coefficient k of byte j's group-level polynomial, `b g k j` of the
member-level polynomial of group g, whose constant term is the group's value. -/
def Obligations.GroupRecoveryIsCorrect : Prop :=
  ∀ (s : State) (f : ShareFields) (l : Nat) (mts : Nat → Nat) (a : Nat → Nat → Byte)
    (b : Nat → Nat → Nat → Byte), s.store ≠ [] → l ≤ 32 → 1 ≤ f.gt.toNat →
    (∀ g < 16, 1 ≤ mts g) →
    (∀ g < 16, ∀ j < l, b g 0 j = polyAt (fun k => a k j) f.gt.toNat (BitVec.ofNat 8 (g + 1))) →
    (∀ e ∈ s.store, e.fields.id = f.id ∧ e.fields.ie = f.ie ∧ e.fields.gc = f.gc ∧
      e.fields.gt = f.gt ∧ e.fields.mt.toNat = mts e.fields.gi.toNat ∧
      e.value = (List.range l).map fun j =>
        polyAt (fun k => b e.fields.gi.toNat k j) (mts e.fields.gi.toNat) (e.fields.mi.setWidth 8 + 1)) →
    let members := fun g => ((s.store.filter fun e => e.fields.gi.toNat = g).map
      fun e => e.fields.mi).toFinset.card
    let resolved := ((List.range 16).filter fun g => mts g ≤ members g).length
    (f.gt.toNat ≤ resolved → ∃ u, exec .ssRecover s = .next u ∧ u.len = BitVec.ofNat 6 l ∧
      (∀ j < 32, secretAt u j = if j < l then a 0 j else secretAt s j) ∧
      u = { s with secret := u.secret, len := u.len, done := true, phase := .idle }) ∧
    (resolved < f.gt.toNat → Reports .ssRecover s 0x08 resolved f.gt.toNat)

/-- R165, as bursts: a share of which some bits were changed, all within 32 consecutive bits of its bit string,
never decodes; it gives CorruptShareError with sub-code 1. A changed byte of metadata or value is at most 8
such bits, in one word or across two; a changed word is 11. -/
def Obligations.ErrorBurstIsDetected : Prop :=
  ∀ (s u v : State) (p : Byte) (a : Nat), encodable s → exec .ssEncode s = .next u →
    (∀ i < 11 * (7 + 3 * s.byteLen / 4), i < a ∨ a + 32 ≤ i → wordsBit v i = wordsBit u i) →
    (∃ i < 11 * (7 + 3 * s.byteLen / 4), wordsBit v i ≠ wordsBit u i) → v.wcount = u.wcount →
    p = 0 ∨ p = 1 → Reports (.ssDecode p) v 0x07 v.store.length 1
end

