-- ==== Sys2Proof/Laws/BitString.lean ====
section
/-! SUPPORT. Bit strings: lengths, and the round trip between numbers and bit strings. -/

namespace Sys2Proof.Machine

@[simp] theorem bitsOf_length (n v : Nat) : (bitsOf n v).length = n := by simp [bitsOf]

@[simp] theorem zeros_length (n : Nat) : (zeros n).length = n := by simp [zeros]

@[simp] theorem bytesBits_length (bytes : List Byte) : (bytesBits bytes).length = 8 * bytes.length := by
  induction bytes with
  | nil => rfl
  | cons b bs ih => simp only [bytesBits, List.flatMap_cons, List.length_append, bitsOf_length,
      List.length_cons] at ih ⊢; omega

@[simp] theorem joinWords_length (ws : List WordIndex) : (joinWords ws).length = 11 * ws.length := by
  induction ws with
  | nil => rfl
  | cons w ws ih => simp only [joinWords, List.flatMap_cons, List.length_append, bitsOf_length,
      List.length_cons] at ih ⊢; omega

@[simp] theorem sliceWords_length (s : BitString) (n : Nat) : (sliceWords s n).length = n := by
  simp [sliceWords]

@[simp] theorem sliceBytes_length (s : BitString) (n : Nat) : (sliceBytes s n).length = n := by
  simp [sliceBytes]

/-- `num` of a string with one more leading bit. -/
theorem num_cons (b : Bool) (s : BitString) : num (b :: s) = b.toNat * 2 ^ s.length + num s := by
  have key : ∀ (t : BitString) (v : Nat),
      t.foldl (fun v b => 2 * v + b.toNat) v = v * 2 ^ t.length + num t := by
    intro t
    induction t with
    | nil => intro v; simp [num]
    | cons c t ih =>
      intro v
      have h := ih (2 * 0 + c.toNat)
      rw [num, List.foldl_cons, List.foldl_cons, h, ih, List.length_cons, Nat.pow_succ]
      ring
  have := key s (2 * 0 + b.toNat)
  simpa [num] using this

/-- A bit string of n bits denotes a number below `2^n`. -/
theorem num_lt (s : BitString) : num s < 2 ^ s.length := by
  induction s with
  | nil => simp [num]
  | cons b s ih =>
    rw [num_cons, List.length_cons, Nat.pow_succ]
    cases b <;> simp <;> omega

theorem bitsOf_succ (n v : Nat) : bitsOf (n + 1) v = v.testBit n :: bitsOf n v := by
  simp only [bitsOf, List.range_succ_eq_map, List.map_cons, List.map_map]
  congr 1
  apply List.map_congr_left
  intro i _
  simp only [Function.comp, Nat.succ_eq_add_one]
  congr 1
  omega

/-- `num(bits_n(v))` is `v` modulo `2^n` (R15). -/
theorem num_bitsOf (n v : Nat) : num (bitsOf n v) = v % 2 ^ n := by
  induction n with
  | zero => simp [bitsOf, num, Nat.mod_one]
  | succ n ih =>
    rw [bitsOf_succ, num_cons, ih, bitsOf_length]
    have h2 : 2 ^ (n + 1) = 2 ^ n * 2 := Nat.pow_succ 2 n
    rw [h2, Nat.mod_mul, Nat.testBit_eq_decide_div_mod_eq]
    have : v / 2 ^ n % 2 = 0 ∨ v / 2 ^ n % 2 = 1 := by omega
    obtain h | h := this <;> simp [h, Nat.add_comm]

/-- `bits_n(num(s))` is `s` for a string of n bits (R15). -/
theorem bitsOf_num (s : BitString) : bitsOf s.length (num s) = s := by
  induction s with
  | nil => rfl
  | cons b s ih =>
    rw [List.length_cons, bitsOf_succ]
    have hlt := num_lt s
    congr 1
    · rw [num_cons, Nat.testBit_eq_decide_div_mod_eq]
      have : (b.toNat * 2 ^ s.length + num s) / 2 ^ s.length = b.toNat := by
        rw [Nat.add_comm, Nat.add_mul_div_right _ _ (Nat.two_pow_pos _), Nat.div_eq_of_lt hlt, Nat.zero_add]
      rw [this]
      cases b <;> simp
    · conv_rhs => rw [← ih]
      apply List.map_congr_left
      intro i hi
      have hi' : i < s.length := by simpa using hi
      rw [num_cons]
      cases b with
      | false => simp
      | true =>
        simp only [Bool.toNat_true, Nat.one_mul]
        rw [Nat.testBit_two_pow_add_gt (by omega)]

end Sys2Proof.Machine
end

