-- ==== Sys2Proof/Laws/Buffers.lean ====
section
/-! SUPPORT. Buffers and bus words: reading an element after an overwrite or a bus write. -/

namespace Sys2Proof.Machine

theorem overwrite_getElem {α : Type} {n : Nat} (buf : Vector α n) (xs : List α) (j : Nat) (h : j < n) :
    (overwrite buf xs)[j] = xs.getD j buf[j] := by
  simp [overwrite]

/-- An element of an overwritten buffer: new inside, old outside (D32). -/
theorem overwrite_getD {α : Type} {n : Nat} (buf : Vector α n) (xs : List α) (j : Nat) (d : α)
    (h : j < n) : (overwrite buf xs).getD j d = if j < xs.length then xs.getD j d else buf.getD j d := by
  by_cases hx : j < xs.length <;> simp [overwrite, Vector.getD, h, hx]

theorem firstOf_length {α : Type} {n : Nat} (buf : Vector α n) (k : Nat) :
    (firstOf buf k).length = min k n := by
  simp [firstOf]

/-- An element of `B[0..k)` is the buffer's. -/
theorem firstOf_getD {α : Type} {n : Nat} (buf : Vector α n) (k j : Nat) (d : α) (h : j < k) :
    (firstOf buf k).getD j d = buf.getD j d := by
  by_cases hn : j < n <;> simp [firstOf, Vector.getD, List.getD, hn, h]

/-- A buffer overwritten with its own first elements is unchanged. -/
theorem overwrite_firstOf {α : Type} {n : Nat} (buf : Vector α n) (k : Nat) :
    overwrite buf (firstOf buf k) = buf := by
  ext j hj
  rw [overwrite_getElem]
  by_cases hk : j < k <;> simp [firstOf, List.getD, hk, hj]

theorem storeAt_getElem {n : Nat} (buf : Vector Byte n) (m : Nat) (v : Word) (j : Nat) (h : j < n) :
    (storeAt buf m v)[j] = if j / 4 = m then byteOf v (j % 4) else buf[j] := by
  simp [storeAt]

/-- A bit of a packed bus word: the byte at the lowest index is in bits 7:0 (R60, R68). -/
theorem packBytes_bit (b0 b1 b2 b3 : Byte) (i : Nat) :
    (packBytes b0 b1 b2 b3).getLsbD i =
      if i < 8 then b0.getLsbD i else if i < 16 then b1.getLsbD (i - 8)
      else if i < 24 then b2.getLsbD (i - 16) else b3.getLsbD (i - 24) := by
  unfold packBytes
  rw [BitVec.getLsbD_append, BitVec.getLsbD_append, BitVec.getLsbD_append]
  have h1 : i - 8 < 8 ↔ i < 16 ∨ i < 8 := by omega
  by_cases a : i < 8 <;> by_cases b : i < 16 <;> by_cases c : i < 24 <;>
    simp [a, b, c, h1, Nat.sub_sub] <;> omega

/-- The four bytes of a bus word packed again give the word. -/
theorem packBytes_byteOf (v : Word) : packBytes (byteOf v 0) (byteOf v 1) (byteOf v 2) (byteOf v 3) = v := by
  ext i hi
  rw [← BitVec.getLsbD_eq_getElem, packBytes_bit, ← BitVec.getLsbD_eq_getElem]
  simp only [byteOf, BitVec.getLsbD_extractLsb']
  split
  · simp [*]
  · split
    · simp [show i - 8 < 8 by omega, show 8 + (i - 8) = i by omega]
    · split
      · simp [show i - 16 < 8 by omega, show 16 + (i - 16) = i by omega]
      · simp [show i - 24 < 8 by omega, show 24 + (i - 24) = i by omega]

/-- Byte `j` of a buffer after a bus write. -/
theorem storeAt_getD {n : Nat} (buf : Vector Byte n) (m : Nat) (v : Word) (j : Nat) (h : j < n) :
    (storeAt buf m v).getD j 0 = if j / 4 = m then byteOf v (j % 4) else buf.getD j 0 := by
  simp [Vector.getD, h, storeAt_getElem]

/-- A byte buffer's bus word reads back what was written to it (R60 to R65). -/
theorem packAt_storeAt_same {n : Nat} (buf : Vector Byte n) (m : Nat) (v : Word) (h : 4 * m + 3 < n) :
    packAt (storeAt buf m v) m = v := by
  have lane : ∀ k < 4, (storeAt buf m v).getD (4 * m + k) 0 = byteOf v k := by
    intro k hk
    rw [storeAt_getD _ _ _ _ (by omega), if_pos (by omega), show (4 * m + k) % 4 = k by omega]
  have lane0 := lane 0 (by omega)
  rw [Nat.add_zero] at lane0
  rw [packAt, lane0, lane 1 (by omega), lane 2 (by omega), lane 3 (by omega), packBytes_byteOf]

/-- A write of one bus word leaves the others alone. -/
theorem packAt_storeAt_other {n : Nat} (buf : Vector Byte n) (m m' : Nat) (v : Word) (h : m' ≠ m) :
    packAt (storeAt buf m v) m' = packAt buf m' := by
  have key : ∀ j, j / 4 ≠ m → (storeAt buf m v).getD j 0 = buf.getD j 0 := by
    intro j hj
    by_cases hn : j < n <;> simp [Vector.getD, hn, storeAt_getElem, hj]
  simp only [packAt]
  rw [key _ (by omega), key _ (by omega), key _ (by omega), key _ (by omega)]

end Sys2Proof.Machine
end

