-- ==== Sys2Proof/Laws/State.lean ====
section
/-! SUPPORT. One lemma per field and shared update of State, each true by definition. -/

namespace Sys2Proof.Machine

/-! ### `issue` -/

@[simp] theorem State.issue_phase (s : State) (w : Word) : (s.issue w).phase = .busy w := rfl
@[simp] theorem State.issue_cmd (s : State) (w : Word) : (s.issue w).cmd = w := rfl
@[simp] theorem State.issue_done (s : State) (w : Word) : (s.issue w).done = false := rfl
@[simp] theorem State.issue_err (s : State) (w : Word) : (s.issue w).err = false := rfl
@[simp] theorem State.issue_ovr (s : State) (w : Word) : (s.issue w).ovr = s.ovr := rfl
@[simp] theorem State.issue_errcode (s : State) (w : Word) : (s.issue w).errcode = 0 := rfl
@[simp] theorem State.issue_errindex (s : State) (w : Word) : (s.issue w).errindex = 0 := rfl
@[simp] theorem State.issue_errgroup (s : State) (w : Word) : (s.issue w).errgroup = 0 := rfl
@[simp] theorem State.issue_ie (s : State) (w : Word) : (s.issue w).ie = s.ie := rfl
@[simp] theorem State.issue_result (s : State) (w : Word) : (s.issue w).result = s.result := rfl
@[simp] theorem State.issue_len (s : State) (w : Word) : (s.issue w).len = s.len := rfl
@[simp] theorem State.issue_wcount (s : State) (w : Word) : (s.issue w).wcount = s.wcount := rfl
@[simp] theorem State.issue_dcount (s : State) (w : Word) : (s.issue w).dcount = s.dcount := rfl
@[simp] theorem State.issue_npts (s : State) (w : Word) : (s.issue w).npts = s.npts := rfl
@[simp] theorem State.issue_cksum (s : State) (w : Word) : (s.issue w).cksum = s.cksum := rfl
@[simp] theorem State.issue_wt (s : State) (w : Word) : (s.issue w).wt = s.wt := rfl
@[simp] theorem State.issue_shf (s : State) (w : Word) : (s.issue w).shf = s.shf := rfl
@[simp] theorem State.issue_secret (s : State) (w : Word) : (s.issue w).secret = s.secret := rfl
@[simp] theorem State.issue_words (s : State) (w : Word) : (s.issue w).words = s.words := rfl
@[simp] theorem State.issue_digits (s : State) (w : Word) : (s.issue w).digits = s.digits := rfl
@[simp] theorem State.issue_coef (s : State) (w : Word) : (s.issue w).coef = s.coef := rfl
@[simp] theorem State.issue_px (s : State) (w : Word) : (s.issue w).px = s.px := rfl
@[simp] theorem State.issue_py (s : State) (w : Word) : (s.issue w).py = s.py := rfl
@[simp] theorem State.issue_store (s : State) (w : Word) : (s.issue w).store = s.store := rfl
@[simp] theorem State.issue_env (s : State) (w : Word) : (s.issue w).env = s.env := rfl

/-! ### `succeed` -/

@[simp] theorem State.succeed_phase (s : State) : (s.succeed).phase = .idle := rfl
@[simp] theorem State.succeed_cmd (s : State) : (s.succeed).cmd = s.cmd := rfl
@[simp] theorem State.succeed_done (s : State) : (s.succeed).done = true := rfl
@[simp] theorem State.succeed_err (s : State) : (s.succeed).err = s.err := rfl
@[simp] theorem State.succeed_ovr (s : State) : (s.succeed).ovr = s.ovr := rfl
@[simp] theorem State.succeed_errcode (s : State) : (s.succeed).errcode = s.errcode := rfl
@[simp] theorem State.succeed_errindex (s : State) : (s.succeed).errindex = s.errindex := rfl
@[simp] theorem State.succeed_errgroup (s : State) : (s.succeed).errgroup = s.errgroup := rfl
@[simp] theorem State.succeed_ie (s : State) : (s.succeed).ie = s.ie := rfl
@[simp] theorem State.succeed_result (s : State) : (s.succeed).result = s.result := rfl
@[simp] theorem State.succeed_len (s : State) : (s.succeed).len = s.len := rfl
@[simp] theorem State.succeed_wcount (s : State) : (s.succeed).wcount = s.wcount := rfl
@[simp] theorem State.succeed_dcount (s : State) : (s.succeed).dcount = s.dcount := rfl
@[simp] theorem State.succeed_npts (s : State) : (s.succeed).npts = s.npts := rfl
@[simp] theorem State.succeed_cksum (s : State) : (s.succeed).cksum = s.cksum := rfl
@[simp] theorem State.succeed_wt (s : State) : (s.succeed).wt = s.wt := rfl
@[simp] theorem State.succeed_shf (s : State) : (s.succeed).shf = s.shf := rfl
@[simp] theorem State.succeed_secret (s : State) : (s.succeed).secret = s.secret := rfl
@[simp] theorem State.succeed_words (s : State) : (s.succeed).words = s.words := rfl
@[simp] theorem State.succeed_digits (s : State) : (s.succeed).digits = s.digits := rfl
@[simp] theorem State.succeed_coef (s : State) : (s.succeed).coef = s.coef := rfl
@[simp] theorem State.succeed_px (s : State) : (s.succeed).px = s.px := rfl
@[simp] theorem State.succeed_py (s : State) : (s.succeed).py = s.py := rfl
@[simp] theorem State.succeed_store (s : State) : (s.succeed).store = s.store := rfl
@[simp] theorem State.succeed_env (s : State) : (s.succeed).env = s.env := rfl

/-! ### `report` -/

@[simp] theorem State.report_phase (s : State) (r : Report) : (s.report r).phase = .idle := rfl
@[simp] theorem State.report_cmd (s : State) (r : Report) : (s.report r).cmd = s.cmd := rfl
@[simp] theorem State.report_done (s : State) (r : Report) : (s.report r).done = true := rfl
@[simp] theorem State.report_err (s : State) (r : Report) : (s.report r).err = true := rfl
@[simp] theorem State.report_ovr (s : State) (r : Report) : (s.report r).ovr = s.ovr := rfl
@[simp] theorem State.report_errcode (s : State) (r : Report) :
    (s.report r).errcode = r.error.code := rfl
@[simp] theorem State.report_errindex (s : State) (r : Report) :
    (s.report r).errindex = BitVec.ofNat 16 r.index := rfl
@[simp] theorem State.report_errgroup (s : State) (r : Report) :
    (s.report r).errgroup = BitVec.ofNat 8 r.group := rfl
@[simp] theorem State.report_ie (s : State) (r : Report) : (s.report r).ie = s.ie := rfl
@[simp] theorem State.report_result (s : State) (r : Report) : (s.report r).result = s.result := rfl
@[simp] theorem State.report_len (s : State) (r : Report) : (s.report r).len = s.len := rfl
@[simp] theorem State.report_wcount (s : State) (r : Report) : (s.report r).wcount = s.wcount := rfl
@[simp] theorem State.report_dcount (s : State) (r : Report) : (s.report r).dcount = s.dcount := rfl
@[simp] theorem State.report_npts (s : State) (r : Report) : (s.report r).npts = s.npts := rfl
@[simp] theorem State.report_cksum (s : State) (r : Report) : (s.report r).cksum = s.cksum := rfl
@[simp] theorem State.report_wt (s : State) (r : Report) : (s.report r).wt = s.wt := rfl
@[simp] theorem State.report_shf (s : State) (r : Report) : (s.report r).shf = s.shf := rfl
@[simp] theorem State.report_secret (s : State) (r : Report) : (s.report r).secret = s.secret := rfl
@[simp] theorem State.report_words (s : State) (r : Report) : (s.report r).words = s.words := rfl
@[simp] theorem State.report_digits (s : State) (r : Report) : (s.report r).digits = s.digits := rfl
@[simp] theorem State.report_coef (s : State) (r : Report) : (s.report r).coef = s.coef := rfl
@[simp] theorem State.report_px (s : State) (r : Report) : (s.report r).px = s.px := rfl
@[simp] theorem State.report_py (s : State) (r : Report) : (s.report r).py = s.py := rfl
@[simp] theorem State.report_store (s : State) (r : Report) : (s.report r).store = s.store := rfl
@[simp] theorem State.report_env (s : State) (r : Report) : (s.report r).env = s.env := rfl

/-! ### `withEvents` -/

@[simp] theorem State.withEvents_phase (s : State) (es : List Event) :
    (s.withEvents es).phase = s.phase := rfl
@[simp] theorem State.withEvents_cmd (s : State) (es : List Event) :
    (s.withEvents es).cmd = s.cmd := rfl
@[simp] theorem State.withEvents_done (s : State) (es : List Event) :
    (s.withEvents es).done = s.done := rfl
@[simp] theorem State.withEvents_err (s : State) (es : List Event) :
    (s.withEvents es).err = s.err := rfl
@[simp] theorem State.withEvents_ovr (s : State) (es : List Event) :
    (s.withEvents es).ovr = s.ovr := rfl
@[simp] theorem State.withEvents_errcode (s : State) (es : List Event) :
    (s.withEvents es).errcode = s.errcode := rfl
@[simp] theorem State.withEvents_errindex (s : State) (es : List Event) :
    (s.withEvents es).errindex = s.errindex := rfl
@[simp] theorem State.withEvents_errgroup (s : State) (es : List Event) :
    (s.withEvents es).errgroup = s.errgroup := rfl
@[simp] theorem State.withEvents_ie (s : State) (es : List Event) :
    (s.withEvents es).ie = s.ie := rfl
@[simp] theorem State.withEvents_result (s : State) (es : List Event) :
    (s.withEvents es).result = s.result := rfl
@[simp] theorem State.withEvents_len (s : State) (es : List Event) :
    (s.withEvents es).len = s.len := rfl
@[simp] theorem State.withEvents_wcount (s : State) (es : List Event) :
    (s.withEvents es).wcount = s.wcount := rfl
@[simp] theorem State.withEvents_dcount (s : State) (es : List Event) :
    (s.withEvents es).dcount = s.dcount := rfl
@[simp] theorem State.withEvents_npts (s : State) (es : List Event) :
    (s.withEvents es).npts = s.npts := rfl
@[simp] theorem State.withEvents_cksum (s : State) (es : List Event) :
    (s.withEvents es).cksum = s.cksum := rfl
@[simp] theorem State.withEvents_wt (s : State) (es : List Event) :
    (s.withEvents es).wt = s.wt := rfl
@[simp] theorem State.withEvents_shf (s : State) (es : List Event) :
    (s.withEvents es).shf = s.shf := rfl
@[simp] theorem State.withEvents_secret (s : State) (es : List Event) :
    (s.withEvents es).secret = s.secret := rfl
@[simp] theorem State.withEvents_words (s : State) (es : List Event) :
    (s.withEvents es).words = s.words := rfl
@[simp] theorem State.withEvents_digits (s : State) (es : List Event) :
    (s.withEvents es).digits = s.digits := rfl
@[simp] theorem State.withEvents_coef (s : State) (es : List Event) :
    (s.withEvents es).coef = s.coef := rfl
@[simp] theorem State.withEvents_px (s : State) (es : List Event) :
    (s.withEvents es).px = s.px := rfl
@[simp] theorem State.withEvents_py (s : State) (es : List Event) :
    (s.withEvents es).py = s.py := rfl
@[simp] theorem State.withEvents_store (s : State) (es : List Event) :
    (s.withEvents es).store = s.store := rfl
@[simp] theorem State.withEvents_env (s : State) (es : List Event) :
    (s.withEvents es).env = { s.env with events := es } := rfl

/-! ### `reply` -/

@[simp] theorem State.reply_phase (s : State) (v : Word) : (s.reply v).phase = s.phase := rfl
@[simp] theorem State.reply_cmd (s : State) (v : Word) : (s.reply v).cmd = s.cmd := rfl
@[simp] theorem State.reply_done (s : State) (v : Word) : (s.reply v).done = s.done := rfl
@[simp] theorem State.reply_err (s : State) (v : Word) : (s.reply v).err = s.err := rfl
@[simp] theorem State.reply_ovr (s : State) (v : Word) : (s.reply v).ovr = s.ovr := rfl
@[simp] theorem State.reply_errcode (s : State) (v : Word) : (s.reply v).errcode = s.errcode := rfl
@[simp] theorem State.reply_errindex (s : State) (v : Word) :
    (s.reply v).errindex = s.errindex := rfl
@[simp] theorem State.reply_errgroup (s : State) (v : Word) :
    (s.reply v).errgroup = s.errgroup := rfl
@[simp] theorem State.reply_ie (s : State) (v : Word) : (s.reply v).ie = s.ie := rfl
@[simp] theorem State.reply_result (s : State) (v : Word) : (s.reply v).result = s.result := rfl
@[simp] theorem State.reply_len (s : State) (v : Word) : (s.reply v).len = s.len := rfl
@[simp] theorem State.reply_wcount (s : State) (v : Word) : (s.reply v).wcount = s.wcount := rfl
@[simp] theorem State.reply_dcount (s : State) (v : Word) : (s.reply v).dcount = s.dcount := rfl
@[simp] theorem State.reply_npts (s : State) (v : Word) : (s.reply v).npts = s.npts := rfl
@[simp] theorem State.reply_cksum (s : State) (v : Word) : (s.reply v).cksum = s.cksum := rfl
@[simp] theorem State.reply_wt (s : State) (v : Word) : (s.reply v).wt = s.wt := rfl
@[simp] theorem State.reply_shf (s : State) (v : Word) : (s.reply v).shf = s.shf := rfl
@[simp] theorem State.reply_secret (s : State) (v : Word) : (s.reply v).secret = s.secret := rfl
@[simp] theorem State.reply_words (s : State) (v : Word) : (s.reply v).words = s.words := rfl
@[simp] theorem State.reply_digits (s : State) (v : Word) : (s.reply v).digits = s.digits := rfl
@[simp] theorem State.reply_coef (s : State) (v : Word) : (s.reply v).coef = s.coef := rfl
@[simp] theorem State.reply_px (s : State) (v : Word) : (s.reply v).px = s.px := rfl
@[simp] theorem State.reply_py (s : State) (v : Word) : (s.reply v).py = s.py := rfl
@[simp] theorem State.reply_store (s : State) (v : Word) : (s.reply v).store = s.store := rfl
@[simp] theorem State.reply_env (s : State) (v : Word) :
    (s.reply v).env = { s.env with replies := v :: s.env.replies } := rfl

/-! ### `replyFree` -/

@[simp] theorem State.replyFree_phase (s : State) : (s.replyFree).phase = s.phase := rfl
@[simp] theorem State.replyFree_cmd (s : State) : (s.replyFree).cmd = s.cmd := rfl
@[simp] theorem State.replyFree_done (s : State) : (s.replyFree).done = s.done := rfl
@[simp] theorem State.replyFree_err (s : State) : (s.replyFree).err = s.err := rfl
@[simp] theorem State.replyFree_ovr (s : State) : (s.replyFree).ovr = s.ovr := rfl
@[simp] theorem State.replyFree_errcode (s : State) : (s.replyFree).errcode = s.errcode := rfl
@[simp] theorem State.replyFree_errindex (s : State) : (s.replyFree).errindex = s.errindex := rfl
@[simp] theorem State.replyFree_errgroup (s : State) : (s.replyFree).errgroup = s.errgroup := rfl
@[simp] theorem State.replyFree_ie (s : State) : (s.replyFree).ie = s.ie := rfl
@[simp] theorem State.replyFree_result (s : State) : (s.replyFree).result = s.result := rfl
@[simp] theorem State.replyFree_len (s : State) : (s.replyFree).len = s.len := rfl
@[simp] theorem State.replyFree_wcount (s : State) : (s.replyFree).wcount = s.wcount := rfl
@[simp] theorem State.replyFree_dcount (s : State) : (s.replyFree).dcount = s.dcount := rfl
@[simp] theorem State.replyFree_npts (s : State) : (s.replyFree).npts = s.npts := rfl
@[simp] theorem State.replyFree_cksum (s : State) : (s.replyFree).cksum = s.cksum := rfl
@[simp] theorem State.replyFree_wt (s : State) : (s.replyFree).wt = s.wt := rfl
@[simp] theorem State.replyFree_shf (s : State) : (s.replyFree).shf = s.shf := rfl
@[simp] theorem State.replyFree_secret (s : State) : (s.replyFree).secret = s.secret := rfl
@[simp] theorem State.replyFree_words (s : State) : (s.replyFree).words = s.words := rfl
@[simp] theorem State.replyFree_digits (s : State) : (s.replyFree).digits = s.digits := rfl
@[simp] theorem State.replyFree_coef (s : State) : (s.replyFree).coef = s.coef := rfl
@[simp] theorem State.replyFree_px (s : State) : (s.replyFree).px = s.px := rfl
@[simp] theorem State.replyFree_py (s : State) : (s.replyFree).py = s.py := rfl
@[simp] theorem State.replyFree_store (s : State) : (s.replyFree).store = s.store := rfl
@[simp] theorem State.replyFree_env (s : State) :
    (s.replyFree).env = ⟨s.env.events, Config.freeRead s.env.freshReads :: s.env.replies, s.env.draws,
      s.env.freshDraws, s.env.freshReads + 1⟩ := rfl

/-! ### `writeStatus` -/

@[simp] theorem State.writeStatus_phase (s : State) (v : Word) :
    (s.writeStatus v).phase = s.phase := rfl
@[simp] theorem State.writeStatus_cmd (s : State) (v : Word) : (s.writeStatus v).cmd = s.cmd := rfl
@[simp] theorem State.writeStatus_done (s : State) (v : Word) :
    (s.writeStatus v).done = clearIfOne s.done (v.getLsbD 1) := rfl
@[simp] theorem State.writeStatus_err (s : State) (v : Word) :
    (s.writeStatus v).err = clearIfOne s.err (v.getLsbD 2) := rfl
@[simp] theorem State.writeStatus_ovr (s : State) (v : Word) :
    (s.writeStatus v).ovr = clearIfOne s.ovr (v.getLsbD 3) := rfl
@[simp] theorem State.writeStatus_errcode (s : State) (v : Word) :
    (s.writeStatus v).errcode = s.errcode := rfl
@[simp] theorem State.writeStatus_errindex (s : State) (v : Word) :
    (s.writeStatus v).errindex = s.errindex := rfl
@[simp] theorem State.writeStatus_errgroup (s : State) (v : Word) :
    (s.writeStatus v).errgroup = s.errgroup := rfl
@[simp] theorem State.writeStatus_ie (s : State) (v : Word) : (s.writeStatus v).ie = s.ie := rfl
@[simp] theorem State.writeStatus_result (s : State) (v : Word) :
    (s.writeStatus v).result = s.result := rfl
@[simp] theorem State.writeStatus_len (s : State) (v : Word) : (s.writeStatus v).len = s.len := rfl
@[simp] theorem State.writeStatus_wcount (s : State) (v : Word) :
    (s.writeStatus v).wcount = s.wcount := rfl
@[simp] theorem State.writeStatus_dcount (s : State) (v : Word) :
    (s.writeStatus v).dcount = s.dcount := rfl
@[simp] theorem State.writeStatus_npts (s : State) (v : Word) :
    (s.writeStatus v).npts = s.npts := rfl
@[simp] theorem State.writeStatus_cksum (s : State) (v : Word) :
    (s.writeStatus v).cksum = s.cksum := rfl
@[simp] theorem State.writeStatus_wt (s : State) (v : Word) : (s.writeStatus v).wt = s.wt := rfl
@[simp] theorem State.writeStatus_shf (s : State) (v : Word) : (s.writeStatus v).shf = s.shf := rfl
@[simp] theorem State.writeStatus_secret (s : State) (v : Word) :
    (s.writeStatus v).secret = s.secret := rfl
@[simp] theorem State.writeStatus_words (s : State) (v : Word) :
    (s.writeStatus v).words = s.words := rfl
@[simp] theorem State.writeStatus_digits (s : State) (v : Word) :
    (s.writeStatus v).digits = s.digits := rfl
@[simp] theorem State.writeStatus_coef (s : State) (v : Word) :
    (s.writeStatus v).coef = s.coef := rfl
@[simp] theorem State.writeStatus_px (s : State) (v : Word) : (s.writeStatus v).px = s.px := rfl
@[simp] theorem State.writeStatus_py (s : State) (v : Word) : (s.writeStatus v).py = s.py := rfl
@[simp] theorem State.writeStatus_store (s : State) (v : Word) :
    (s.writeStatus v).store = s.store := rfl
@[simp] theorem State.writeStatus_env (s : State) (v : Word) : (s.writeStatus v).env = s.env := rfl

/-! ### `zeroized` -/

@[simp] theorem State.zeroized_phase (s : State) : (s.zeroized).phase = State.reset.phase := rfl
@[simp] theorem State.zeroized_cmd (s : State) : (s.zeroized).cmd = s.cmd := rfl
@[simp] theorem State.zeroized_done (s : State) : (s.zeroized).done = State.reset.done := rfl
@[simp] theorem State.zeroized_err (s : State) : (s.zeroized).err = State.reset.err := rfl
@[simp] theorem State.zeroized_ovr (s : State) : (s.zeroized).ovr = s.ovr := rfl
@[simp] theorem State.zeroized_errcode (s : State) :
    (s.zeroized).errcode = State.reset.errcode := rfl
@[simp] theorem State.zeroized_errindex (s : State) :
    (s.zeroized).errindex = State.reset.errindex := rfl
@[simp] theorem State.zeroized_errgroup (s : State) :
    (s.zeroized).errgroup = State.reset.errgroup := rfl
@[simp] theorem State.zeroized_ie (s : State) : (s.zeroized).ie = s.ie := rfl
@[simp] theorem State.zeroized_result (s : State) : (s.zeroized).result = State.reset.result := rfl
@[simp] theorem State.zeroized_len (s : State) : (s.zeroized).len = State.reset.len := rfl
@[simp] theorem State.zeroized_wcount (s : State) : (s.zeroized).wcount = State.reset.wcount := rfl
@[simp] theorem State.zeroized_dcount (s : State) : (s.zeroized).dcount = State.reset.dcount := rfl
@[simp] theorem State.zeroized_npts (s : State) : (s.zeroized).npts = State.reset.npts := rfl
@[simp] theorem State.zeroized_cksum (s : State) : (s.zeroized).cksum = State.reset.cksum := rfl
@[simp] theorem State.zeroized_wt (s : State) : (s.zeroized).wt = State.reset.wt := rfl
@[simp] theorem State.zeroized_shf (s : State) : (s.zeroized).shf = State.reset.shf := rfl
@[simp] theorem State.zeroized_secret (s : State) : (s.zeroized).secret = State.reset.secret := rfl
@[simp] theorem State.zeroized_words (s : State) : (s.zeroized).words = State.reset.words := rfl
@[simp] theorem State.zeroized_digits (s : State) : (s.zeroized).digits = State.reset.digits := rfl
@[simp] theorem State.zeroized_coef (s : State) : (s.zeroized).coef = State.reset.coef := rfl
@[simp] theorem State.zeroized_px (s : State) : (s.zeroized).px = State.reset.px := rfl
@[simp] theorem State.zeroized_py (s : State) : (s.zeroized).py = State.reset.py := rfl
@[simp] theorem State.zeroized_store (s : State) : (s.zeroized).store = State.reset.store := rfl
@[simp] theorem State.zeroized_env (s : State) : (s.zeroized).env = s.env := rfl

/-! ### `applyReset` -/

@[simp] theorem State.applyReset_phase (s : State) : (s.applyReset).phase = State.reset.phase := rfl
@[simp] theorem State.applyReset_cmd (s : State) : (s.applyReset).cmd = State.reset.cmd := rfl
@[simp] theorem State.applyReset_done (s : State) : (s.applyReset).done = State.reset.done := rfl
@[simp] theorem State.applyReset_err (s : State) : (s.applyReset).err = State.reset.err := rfl
@[simp] theorem State.applyReset_ovr (s : State) : (s.applyReset).ovr = State.reset.ovr := rfl
@[simp] theorem State.applyReset_errcode (s : State) :
    (s.applyReset).errcode = State.reset.errcode := rfl
@[simp] theorem State.applyReset_errindex (s : State) :
    (s.applyReset).errindex = State.reset.errindex := rfl
@[simp] theorem State.applyReset_errgroup (s : State) :
    (s.applyReset).errgroup = State.reset.errgroup := rfl
@[simp] theorem State.applyReset_ie (s : State) : (s.applyReset).ie = State.reset.ie := rfl
@[simp] theorem State.applyReset_result (s : State) :
    (s.applyReset).result = State.reset.result := rfl
@[simp] theorem State.applyReset_len (s : State) : (s.applyReset).len = State.reset.len := rfl
@[simp] theorem State.applyReset_wcount (s : State) :
    (s.applyReset).wcount = State.reset.wcount := rfl
@[simp] theorem State.applyReset_dcount (s : State) :
    (s.applyReset).dcount = State.reset.dcount := rfl
@[simp] theorem State.applyReset_npts (s : State) : (s.applyReset).npts = State.reset.npts := rfl
@[simp] theorem State.applyReset_cksum (s : State) : (s.applyReset).cksum = State.reset.cksum := rfl
@[simp] theorem State.applyReset_wt (s : State) : (s.applyReset).wt = State.reset.wt := rfl
@[simp] theorem State.applyReset_shf (s : State) : (s.applyReset).shf = State.reset.shf := rfl
@[simp] theorem State.applyReset_secret (s : State) :
    (s.applyReset).secret = State.reset.secret := rfl
@[simp] theorem State.applyReset_words (s : State) : (s.applyReset).words = State.reset.words := rfl
@[simp] theorem State.applyReset_digits (s : State) :
    (s.applyReset).digits = State.reset.digits := rfl
@[simp] theorem State.applyReset_coef (s : State) : (s.applyReset).coef = State.reset.coef := rfl
@[simp] theorem State.applyReset_px (s : State) : (s.applyReset).px = State.reset.px := rfl
@[simp] theorem State.applyReset_py (s : State) : (s.applyReset).py = State.reset.py := rfl
@[simp] theorem State.applyReset_store (s : State) : (s.applyReset).store = State.reset.store := rfl
@[simp] theorem State.applyReset_env (s : State) : (s.applyReset).env = s.env := rfl

/-! ### `loadShare` -/

@[simp] theorem State.loadShare_phase (s : State) (e : StoreEntry) :
    (s.loadShare e).phase = s.phase := rfl
@[simp] theorem State.loadShare_cmd (s : State) (e : StoreEntry) :
    (s.loadShare e).cmd = s.cmd := rfl
@[simp] theorem State.loadShare_done (s : State) (e : StoreEntry) :
    (s.loadShare e).done = s.done := rfl
@[simp] theorem State.loadShare_err (s : State) (e : StoreEntry) :
    (s.loadShare e).err = s.err := rfl
@[simp] theorem State.loadShare_ovr (s : State) (e : StoreEntry) :
    (s.loadShare e).ovr = s.ovr := rfl
@[simp] theorem State.loadShare_errcode (s : State) (e : StoreEntry) :
    (s.loadShare e).errcode = s.errcode := rfl
@[simp] theorem State.loadShare_errindex (s : State) (e : StoreEntry) :
    (s.loadShare e).errindex = s.errindex := rfl
@[simp] theorem State.loadShare_errgroup (s : State) (e : StoreEntry) :
    (s.loadShare e).errgroup = s.errgroup := rfl
@[simp] theorem State.loadShare_ie (s : State) (e : StoreEntry) : (s.loadShare e).ie = s.ie := rfl
@[simp] theorem State.loadShare_result (s : State) (e : StoreEntry) :
    (s.loadShare e).result = s.result := rfl
@[simp] theorem State.loadShare_len (s : State) (e : StoreEntry) :
    (s.loadShare e).len = BitVec.ofNat 6 e.value.length := rfl
@[simp] theorem State.loadShare_wcount (s : State) (e : StoreEntry) :
    (s.loadShare e).wcount = s.wcount := rfl
@[simp] theorem State.loadShare_dcount (s : State) (e : StoreEntry) :
    (s.loadShare e).dcount = s.dcount := rfl
@[simp] theorem State.loadShare_npts (s : State) (e : StoreEntry) :
    (s.loadShare e).npts = s.npts := rfl
@[simp] theorem State.loadShare_cksum (s : State) (e : StoreEntry) :
    (s.loadShare e).cksum = s.cksum := rfl
@[simp] theorem State.loadShare_wt (s : State) (e : StoreEntry) : (s.loadShare e).wt = s.wt := rfl
@[simp] theorem State.loadShare_shf (s : State) (e : StoreEntry) :
    (s.loadShare e).shf = e.fields := rfl
@[simp] theorem State.loadShare_secret (s : State) (e : StoreEntry) :
    (s.loadShare e).secret = overwrite s.secret e.value := rfl
@[simp] theorem State.loadShare_words (s : State) (e : StoreEntry) :
    (s.loadShare e).words = s.words := rfl
@[simp] theorem State.loadShare_digits (s : State) (e : StoreEntry) :
    (s.loadShare e).digits = s.digits := rfl
@[simp] theorem State.loadShare_coef (s : State) (e : StoreEntry) :
    (s.loadShare e).coef = s.coef := rfl
@[simp] theorem State.loadShare_px (s : State) (e : StoreEntry) : (s.loadShare e).px = s.px := rfl
@[simp] theorem State.loadShare_py (s : State) (e : StoreEntry) : (s.loadShare e).py = s.py := rfl
@[simp] theorem State.loadShare_store (s : State) (e : StoreEntry) :
    (s.loadShare e).store = s.store := rfl
@[simp] theorem State.loadShare_env (s : State) (e : StoreEntry) :
    (s.loadShare e).env = s.env := rfl

end Sys2Proof.Machine
end

