-- ==== Sys2Proof/Laws/Ops.lean ====
section
/-! SUPPORT. What each shared operation can do, said once: completion, draws, the environment, the bus and
reset. -/

namespace Sys2Proof.Machine

/-! ### Completion -/

@[simp] theorem complete_ok (s t : State) : s.complete (.ok t) = t.succeed := rfl

@[simp] theorem complete_error (s : State) (r : Report) : s.complete (.error r) = s.report r := rfl

@[simp] theorem complete_raise (s : State) (e : CommandError) (index group : Nat) :
    s.complete (raise e index group) = s.report ⟨e, index, group⟩ := rfl

@[simp] theorem complete_badParameter (s : State) (p : Param) :
    s.complete (badParameter p) = s.report ⟨.badParameter, p.number, 0⟩ := rfl

@[simp] theorem finish_eq (s : State) (r : CmdResult) : finish s r = .next (s.complete r) := rfl

/-- Every completion leaves the unit idle with DONE set (R190). -/
theorem complete_done (s : State) (r : CmdResult) :
    (s.complete r).done = true ∧ (s.complete r).phase = .idle := by
  cases r <;> exact ⟨rfl, rfl⟩

/-- Completion takes one of two forms: the writes committed, or the report alone (R190, R191). -/
theorem complete_cases (s : State) (r : CmdResult) :
    (∃ t, r = .ok t ∧ s.complete r = t.succeed) ∨ (∃ e, r = .error e ∧ s.complete r = s.report e) := by
  cases r with
  | ok t => exact .inl ⟨t, rfl, rfl⟩
  | error e => exact .inr ⟨e, rfl, rfl⟩

/-- A report's code is never 0 (R188). -/
theorem code_ne_zero (e : CommandError) : e.code ≠ 0 := by cases e <;> decide

/-- The pending word is the phase's (R49). -/
theorem pendingWord_eq_some {s : State} {w : Word} : s.pendingWord = some w ↔ s.phase = .busy w := by
  unfold State.pendingWord
  cases s.phase <;> simp

theorem pendingWord_eq_none {s : State} : s.pendingWord = none ↔ s.phase = .idle := by
  unfold State.pendingWord
  cases s.phase <;> simp

/-! ### Draws -/

/-- A draw takes the next supplied byte, or else the next free one (R52). -/
theorem draw_cases (e : Env) :
    (∃ b rest, e.draws = b :: rest ∧ draw e = (b, { e with draws := rest })) ∨
      (e.draws = [] ∧
        draw e = (Config.freeByte e.freshDraws, { e with freshDraws := e.freshDraws + 1 })) := by
  unfold draw
  cases h : e.draws with
  | nil => exact .inr ⟨rfl, rfl⟩
  | cons b rest => exact .inl ⟨b, rest, rfl, rfl⟩

@[simp] theorem draw_events (e : Env) : (draw e).2.events = e.events := by
  obtain ⟨b, rest, _, h⟩ | ⟨_, h⟩ := draw_cases e <;> rw [h]

@[simp] theorem draw_replies (e : Env) : (draw e).2.replies = e.replies := by
  obtain ⟨b, rest, _, h⟩ | ⟨_, h⟩ := draw_cases e <;> rw [h]

@[simp] theorem draw_freshReads (e : Env) : (draw e).2.freshReads = e.freshReads := by
  obtain ⟨b, rest, _, h⟩ | ⟨_, h⟩ := draw_cases e <;> rw [h]

@[simp] theorem drawMany_length (n : Nat) (e : Env) : (drawMany n e).1.length = n := by
  induction n generalizing e with
  | zero => rfl
  | succ n ih => simp [drawMany, ih]

@[simp] theorem drawMany_events (n : Nat) (e : Env) : (drawMany n e).2.events = e.events := by
  induction n generalizing e with
  | zero => rfl
  | succ n ih => simp [drawMany, ih]

@[simp] theorem drawMany_replies (n : Nat) (e : Env) : (drawMany n e).2.replies = e.replies := by
  induction n generalizing e with
  | zero => rfl
  | succ n ih => simp [drawMany, ih]

@[simp] theorem drawMany_freshReads (n : Nat) (e : Env) : (drawMany n e).2.freshReads = e.freshReads := by
  induction n generalizing e with
  | zero => rfl
  | succ n ih => simp [drawMany, ih]

/-! ### The bus -/

/-- A host access either is served or is refused (R71). -/
theorem busAccess_cases (a : Access) (s : State) :
    (a.accepted = true ∧ busAccess a s = .next (s.serve a)) ∨
      (a.accepted = false ∧ busAccess a s = .refused .unacceptedAccess) := by
  unfold busAccess
  cases h : a.accepted
  · exact .inr ⟨rfl, by simp⟩
  · exact .inl ⟨rfl, by simp⟩

/-- A write is the window's while idle and only sets OVR while busy (R74). -/
theorem hostWrite_cases (s : State) (off : Nat) (v : Word) :
    (s.phase = .idle ∧ s.hostWrite off v = s.windowWrite off v) ∨
      (∃ w, s.phase = .busy w ∧ s.hostWrite off v = { s with ovr := true }) := by
  unfold State.hostWrite
  cases h : s.phase with
  | idle => exact .inl ⟨rfl, rfl⟩
  | busy w => exact .inr ⟨w, rfl, rfl⟩

/-- A read answers the window's content, or, while busy and off the three readable locations, a free
value; nothing but the environment changes (R73, R75). -/
theorem hostRead_cases (s : State) (off : Nat) :
    ((s.phase = .idle ∨ readableWhileBusy off) ∧ s.hostRead off = s.reply (s.windowWord off)) ∨
      ((∃ w, s.phase = .busy w) ∧ ¬ readableWhileBusy off ∧ s.hostRead off = s.replyFree) := by
  unfold State.hostRead
  cases h : s.phase with
  | idle => exact .inl ⟨.inl rfl, rfl⟩
  | busy w =>
    by_cases hr : readableWhileBusy off
    · exact .inl ⟨.inr hr, if_pos hr⟩
    · exact .inr ⟨⟨w, rfl⟩, hr, if_neg hr⟩

/-- Every offset of the window has a host address, `BASE + offset` (R57). -/
theorem windowOffset_base (off : BitVec 12) : windowOffset (Config.base + off.toNat) = some off := by
  have := off.isLt
  unfold windowOffset
  rw [if_pos (by omega)]
  simp

/-- The reset input applies the reset values; only an overlapping read adds a reply (R206, I5). -/
theorem resetInput_cases (s : State) (o : Option Access) :
    s.resetInput o = s.applyReset ∨ s.resetInput o = s.applyReset.replyFree := by
  unfold State.resetInput
  split
  · exact .inl rfl
  · exact .inl rfl
  · exact .inr rfl

end Sys2Proof.Machine
end

