-- ==== Sys2Proof/Laws/PerInstr.lean ====
section
/-! SUPPORT. Per-instruction laws over the syntax: the decoder gives back an encoded command. -/

namespace Sys2Proof

/-- Which field a bit of a command word belongs to (30_encoding.md R86). -/
theorem commandWord_bit (op f1 f2 f3 : Byte) (i : Nat) :
    (commandWord op f1 f2 f3).getLsbD i =
      if i < 8 then op.getLsbD i else if i < 16 then f1.getLsbD (i - 8)
      else if i < 24 then f2.getLsbD (i - 16) else f3.getLsbD (i - 24) := by
  unfold commandWord
  rw [BitVec.getLsbD_append, BitVec.getLsbD_append, BitVec.getLsbD_append]
  have h1 : i - 8 < 8 ↔ i < 16 ∨ i < 8 := by omega
  by_cases a : i < 8 <;> by_cases b : i < 16 <;> by_cases c : i < 24 <;>
    simp [a, b, c, h1, Nat.sub_sub] <;> omega

@[simp] theorem opField_commandWord (op f1 f2 f3 : Byte) :
    opField (commandWord op f1 f2 f3) = op := by
  ext i hi
  rw [opField, BitVec.getElem_extractLsb', commandWord_bit]
  simp [hi]

@[simp] theorem f1Field_commandWord (op f1 f2 f3 : Byte) :
    f1Field (commandWord op f1 f2 f3) = f1 := by
  ext i hi
  rw [f1Field, BitVec.getElem_extractLsb', commandWord_bit]
  simp [show 8 + i < 16 by omega, BitVec.getLsbD_eq_getElem hi]

@[simp] theorem f2Field_commandWord (op f1 f2 f3 : Byte) :
    f2Field (commandWord op f1 f2 f3) = f2 := by
  ext i hi
  rw [f2Field, BitVec.getElem_extractLsb', commandWord_bit]
  simp [show ¬ 16 + i < 8 by omega, show 16 + i < 24 by omega, BitVec.getLsbD_eq_getElem hi]

@[simp] theorem f3Field_commandWord (op f1 f2 f3 : Byte) :
    f3Field (commandWord op f1 f2 f3) = f3 := by
  ext i hi
  rw [f3Field, BitVec.getElem_extractLsb', commandWord_bit]
  simp [show ¬ 24 + i < 8 by omega, show ¬ 24 + i < 16 by omega, BitVec.getLsbD_eq_getElem hi]

/-- Unused bits that are all 0 let a command through. -/
@[simp] theorem withUnusedZero_ok (op : Byte) (unused : List Byte) (i : Instr)
    (h : unused.all (· == 0) = true) : withUnusedZero op unused i = .ok i := by
  rw [withUnusedZero, if_pos h]

/-- An unused bit that is 1 makes the word illegal, whatever the command. -/
theorem withUnusedZero_error (op : Byte) (unused : List Byte) (i : Instr)
    (h : unused.all (· == 0) = false) : withUnusedZero op unused i = .error (.reservedField op) := by
  rw [withUnusedZero, if_neg (ne_true_of_eq_false h)]

/-! ### The family RoundTrip -/

/-- Decoding the word of a well-formed command gives the command back (30_encoding.md R90, R100). -/
def Laws.RoundTrip.Statement (i : Instr) : Prop := i.wellFormed = true → decode (encode i) = .ok i

theorem Laws.RoundTrip.nop : Laws.RoundTrip.Statement .nop := fun _ => rfl

theorem Laws.RoundTrip.gfAdd (a b : Byte) : Laws.RoundTrip.Statement (.gfAdd a b) := fun _ => by
  simp [decode, encode]

theorem Laws.RoundTrip.gfMul (a b : Byte) : Laws.RoundTrip.Statement (.gfMul a b) := fun _ => by
  simp [decode, encode]

theorem Laws.RoundTrip.gfInv (a : Byte) : Laws.RoundTrip.Statement (.gfInv a) := fun _ => by
  simp [decode, encode]

theorem Laws.RoundTrip.shEval (t x slot : Byte) :
    Laws.RoundTrip.Statement (.shEval t x slot) := fun _ => by
  simp [decode, encode, withUnusedZero]

theorem Laws.RoundTrip.shGencoef (t : Byte) : Laws.RoundTrip.Statement (.shGencoef t) := fun _ => by
  simp [decode, encode]

theorem Laws.RoundTrip.shSplit (t n : Byte) : Laws.RoundTrip.Statement (.shSplit t n) := fun _ => by
  simp [decode, encode]

theorem Laws.RoundTrip.shInterp (t : Byte) : Laws.RoundTrip.Statement (.shInterp t) := fun _ => by
  simp [decode, encode]

theorem Laws.RoundTrip.shLoadpt (slot : Byte) :
    Laws.RoundTrip.Statement (.shLoadpt slot) := fun _ => by
  simp [decode, encode]

theorem Laws.RoundTrip.shStorept (x slot : Byte) :
    Laws.RoundTrip.Statement (.shStorept x slot) := fun _ => by
  simp [decode, encode]

theorem Laws.RoundTrip.ckCompute : Laws.RoundTrip.Statement .ckCompute := fun _ => rfl

theorem Laws.RoundTrip.ckVerify (c : Byte) : Laws.RoundTrip.Statement (.ckVerify c) := fun _ => by
  simp [decode, encode]

theorem Laws.RoundTrip.mnEncode : Laws.RoundTrip.Statement .mnEncode := fun _ => rfl

theorem Laws.RoundTrip.mnDecode : Laws.RoundTrip.Statement .mnDecode := fun _ => rfl

theorem Laws.RoundTrip.wlIndex (slot : Byte) :
    Laws.RoundTrip.Statement (.wlIndex slot) := fun _ => by
  simp [decode, encode]

theorem Laws.RoundTrip.wlWord (slot : Byte) : Laws.RoundTrip.Statement (.wlWord slot) := fun _ => by
  simp [decode, encode]

theorem Laws.RoundTrip.dgTodigits : Laws.RoundTrip.Statement .dgTodigits := fun _ => rfl

theorem Laws.RoundTrip.dgFromdigits : Laws.RoundTrip.Statement .dgFromdigits := fun _ => rfl

theorem Laws.RoundTrip.ssEncode : Laws.RoundTrip.Statement .ssEncode := fun _ => rfl

theorem Laws.RoundTrip.ssDecode (push : Byte) :
    Laws.RoundTrip.Statement (.ssDecode push) := fun h => by
  have h' : push &&& pushReservedBits = 0 := by simpa [Instr.wellFormed] using h
  simp [decode, encode, withUnusedZero, h']

theorem Laws.RoundTrip.ssClear : Laws.RoundTrip.Statement .ssClear := fun _ => rfl

theorem Laws.RoundTrip.ssRecover : Laws.RoundTrip.Statement .ssRecover := fun _ => rfl

theorem Laws.RoundTrip.ssGenid : Laws.RoundTrip.Statement .ssGenid := fun _ => rfl

theorem Laws.RoundTrip.zeroize : Laws.RoundTrip.Statement .zeroize := fun _ => rfl

end Sys2Proof
end

