-- ==== Sys2Proof/Laws/Sha256.lean ====
section
/-! SUPPORT. The constants of SHA-256 are what FIPS 180-4 says they are: the integer root is the root, and the
primes are the first 64. -/

namespace Sys2Proof.Machine.Sha256

theorem rootFrom_pow_le (k n bits r : Nat) (h : r ^ k ≤ n) : rootFrom k n bits r ^ k ≤ n := by
  induction bits generalizing r with
  | zero => exact h
  | succ bits ih =>
    unfold rootFrom
    split
    · exact ih _ ‹_›
    · exact ih _ h

theorem lt_rootFrom_succ_pow (k n bits r : Nat) (h : n < (r + 2 ^ bits) ^ k) :
    n < (rootFrom k n bits r + 1) ^ k := by
  induction bits generalizing r with
  | zero => exact h
  | succ bits ih =>
    unfold rootFrom
    split
    · refine ih _ ?_
      rwa [Nat.add_assoc, ← Nat.two_mul, ← Nat.pow_succ']
    · exact ih _ (Nat.lt_of_not_le ‹_›)

theorem primes_length : primes.length = 64 := by decide +kernel

theorem primes_prime : ∀ p ∈ List.range 312, p ∈ primes ↔ p.Prime := by decide +kernel

end Sys2Proof.Machine.Sha256
end

