-- ==== Sys2Proof/Laws/Step.lean ====
section
/-! SUPPORT. What one step and one command can do, said once. -/

namespace Sys2Proof.Machine

/-- The parts of the state no command changes before its completion: CMD, CTRL.IE and STATUS.OVR, the
coming moves and the replies (R27, R28, R30). -/
structure KeepsControl (s t : State) : Prop where
  cmd : t.cmd = s.cmd
  ie : t.ie = s.ie
  ovr : t.ovr = s.ovr
  events : t.env.events = s.env.events
  replies : t.env.replies = s.env.replies
  freshReads : t.env.freshReads = s.env.freshReads

/-- The report registers are as before, or at their reset values (ZEROIZE, R186). -/
def KeepsReport (s t : State) : Prop :=
  (t.err = s.err ∧ t.errcode = s.errcode ∧ t.errindex = s.errindex ∧ t.errgroup = s.errgroup) ∨
    (t.err = false ∧ t.errcode = 0 ∧ t.errindex = 0 ∧ t.errgroup = 0)

/-- A command's rule: on success it leaves the control state alone, and its error is one of the core's. -/
def OrderlyResult (s : State) (r : CmdResult) : Prop :=
  match r with
  | .ok t => KeepsControl s t ∧ KeepsReport s t
  | .error e => e.error ≠ .indivisibleLength

theorem orderly_ok {s t : State} (h : KeepsControl s t) (h' : KeepsReport s t) :
    OrderlyResult s (.ok t) := ⟨h, h'⟩

theorem orderly_error {s : State} {e : Report} (h : e.error ≠ .indivisibleLength) :
    OrderlyResult s (.error e) := h

/-- A result that is orderly in both branches of a check is orderly. -/
theorem orderly_ite {s : State} {c : Prop} [Decidable c] {a b : CmdResult} (ha : OrderlyResult s a)
    (hb : OrderlyResult s b) : OrderlyResult s (if c then a else b) := by
  split
  · exact ha
  · exact hb

theorem orderly_raise {s : State} {e : CommandError} (i g : Nat) (h : e ≠ .indivisibleLength) :
    OrderlyResult s (raise e i g) := h

theorem orderly_badParameter {s : State} (p : Param) : OrderlyResult s (badParameter p) := by
  intro h; cases h

/-- A successful result that only writes data fields. -/
theorem orderly_data {s t : State} (hc : t.cmd = s.cmd) (hi : t.ie = s.ie) (ho : t.ovr = s.ovr)
    (he : t.env = s.env) (h1 : t.err = s.err) (h2 : t.errcode = s.errcode)
    (h3 : t.errindex = s.errindex) (h4 : t.errgroup = s.errgroup) : OrderlyResult s (.ok t) :=
  ⟨⟨hc, hi, ho, by rw [he], by rw [he], by rw [he]⟩, .inl ⟨h1, h2, h3, h4⟩⟩

theorem drawCoef_orderly (s : State) (t l : Nat) : OrderlyResult s (.ok (s.drawCoef t l)) :=
  ⟨⟨rfl, rfl, rfl, drawMany_events _ _, drawMany_replies _ _, drawMany_freshReads _ _⟩,
    .inl ⟨rfl, rfl, rfl, rfl⟩⟩

/-- Filling the point slots keeps whatever is orderly: it writes PX, PY and NPTS only. -/
theorem fillPoints_orderly {s u : State} (t n l : Nat) (h : OrderlyResult s (.ok u)) :
    OrderlyResult s (.ok (u.fillPoints t n l)) :=
  ⟨⟨h.1.cmd, h.1.ie, h.1.ovr, h.1.events, h.1.replies, h.1.freshReads⟩, h.2⟩

theorem interpolate_orderly (s : State) (t : Nat) : OrderlyResult s (s.interpolate t) := by
  unfold State.interpolate
  split
  · exact orderly_raise _ _ (by decide)
  · exact orderly_ite (orderly_raise _ _ (by decide)) (orderly_data rfl rfl rfl rfl rfl rfl rfl rfl)

theorem indexWord_orderly (s : State) (word : WordIndex → List Byte) (slot : Nat) :
    OrderlyResult s (s.indexWord word slot) := by
  unfold State.indexWord
  refine orderly_ite (orderly_badParameter _) ?_
  split
  · exact orderly_data rfl rfl rfl rfl rfl rfl rfl rfl
  · exact orderly_raise _ _ (by decide)

theorem lookupWord_orderly (s : State) (word : WordIndex → List Byte) (slot : Nat) :
    OrderlyResult s (s.lookupWord word slot) :=
  orderly_ite (orderly_badParameter _) (orderly_data rfl rfl rfl rfl rfl rfl rfl rfl)

theorem parseDigits_error {i : Nat} {cs : List Byte} {r : Report} (h : parseDigits i cs = .error r) :
    r.error = .invalidDigitFormat := by
  fun_induction parseDigits i cs with
  | case1 => cases h; rfl
  | case2 => cases h; rfl
  | case3 i a b c d rest _ _ e he ih => cases h; exact ih he
  | case4 => cases h
  | case5 => cases h

theorem decodeShare_error {sb : BitString} {l k : Nat} {r : Report} (h : decodeShare sb l k = .error r) :
    r.error = .corruptShare := by
  simp only [decodeShare] at h
  repeat' split at h
  all_goals first | (cases h; rfl) | cases h

theorem firstMismatch_error {first : StoreEntry} {st : List (StoreEntry × Nat)} {r : Report}
    (h : firstMismatch first st = some r) : r.error = .mismatchedShareSet := by
  obtain ⟨e, _, he⟩ := List.exists_of_findSome?_eq_some h
  cases hm : mismatchCode first e.1 with
  | none => simp [hm] at he
  | some c => simp only [hm, Option.map_some, Option.some.injEq] at he; rw [← he]

theorem thresholdMismatch_error {mt : BitVec 5} {ms : List (StoreEntry × Nat)} {r : Report}
    (h : thresholdMismatch mt ms = some r) : r.error = .mismatchedShareSet := by
  obtain ⟨e, _, he⟩ := List.exists_of_findSome?_eq_some h
  split at he
  · cases he; rfl
  · cases he

theorem resolveGroup_error {ms : List (StoreEntry × Nat)} {g l : Nat} {r : Report}
    (h : resolveGroup ms g l = .error r) :
    r.error = .mismatchedShareSet ∨ r.error = .duplicateShare := by
  unfold resolveGroup at h
  split at h
  · cases h
  · split at h
    · rename_i hm
      cases h
      exact .inl (thresholdMismatch_error hm)
    · split at h
      · cases h; exact .inr rfl
      · split at h <;> cases h

theorem resolveGroups_error {st : List (StoreEntry × Nat)} {l : Nat} {gs : List Nat} {r : Report}
    (h : resolveGroups st l gs = .error r) :
    r.error = .mismatchedShareSet ∨ r.error = .duplicateShare := by
  induction gs with
  | nil => cases h
  | cons g gs ih =>
    simp only [resolveGroups] at h
    split at h
    · rename_i hg
      cases h
      exact resolveGroup_error hg
    · split at h
      · rename_i hg
        cases h
        exact ih hg
      · cases h

theorem recoverSecret_error {st : List StoreEntry} {r : Report} (h : recoverSecret st = .error r) :
    r.error = .mismatchedShareSet ∨ r.error = .duplicateShare ∨ r.error = .insufficientGroups := by
  unfold recoverSecret at h
  split at h
  · cases h; exact .inr (.inr rfl)
  · split at h
    · rename_i hm
      cases h
      exact .inl (firstMismatch_error hm)
    · split at h
      · rename_i hg
        cases h
        exact (resolveGroups_error hg).imp id .inl
      · split at h
        · cases h; exact .inr (.inr rfl)
        · cases h

/-- Every command is its rule's result, completed, and the result is orderly: the inversion lemma of
`exec`. -/
theorem exec_finishes (i : Instr) (s : State) : ∃ r, exec i s = finish s r ∧ OrderlyResult s r := by
  cases i with
  | nop => exact ⟨_, rfl, orderly_data rfl rfl rfl rfl rfl rfl rfl rfl⟩
  | gfAdd a b => exact ⟨_, rfl, orderly_data rfl rfl rfl rfl rfl rfl rfl rfl⟩
  | gfMul a b => exact ⟨_, rfl, orderly_data rfl rfl rfl rfl rfl rfl rfl rfl⟩
  | gfInv a =>
    exact ⟨_, rfl, orderly_ite (orderly_raise _ _ (by decide)) (orderly_data rfl rfl rfl rfl rfl rfl rfl rfl)⟩
  | shEval t x slot =>
    exact ⟨_, rfl, orderly_ite (orderly_badParameter _) (orderly_ite (orderly_badParameter _)
      (orderly_ite (orderly_badParameter _) (orderly_ite (orderly_badParameter _)
        (orderly_data rfl rfl rfl rfl rfl rfl rfl rfl))))⟩
  | shGencoef t =>
    exact ⟨_, rfl, orderly_ite (orderly_badParameter _) (orderly_ite (orderly_badParameter _)
      (drawCoef_orderly _ _ _))⟩
  | shSplit t n =>
    exact ⟨_, rfl, orderly_ite (orderly_badParameter _) (orderly_ite (orderly_badParameter _)
      (orderly_ite (orderly_badParameter _) (fillPoints_orderly _ _ _ (drawCoef_orderly s t.toNat s.byteLen))))⟩
  | shInterp t =>
    exact ⟨_, rfl, orderly_ite (orderly_badParameter _) (orderly_ite (orderly_badParameter _)
      (orderly_ite (orderly_badParameter _) (interpolate_orderly _ _)))⟩
  | shLoadpt slot =>
    exact ⟨_, rfl, orderly_ite (orderly_badParameter _) (orderly_ite (orderly_badParameter _)
      (orderly_data rfl rfl rfl rfl rfl rfl rfl rfl))⟩
  | shStorept x slot =>
    exact ⟨_, rfl, orderly_ite (orderly_badParameter _) (orderly_ite (orderly_badParameter _)
      (orderly_data rfl rfl rfl rfl rfl rfl rfl rfl))⟩
  | ckCompute =>
    exact ⟨_, rfl, orderly_ite (orderly_badParameter _) (orderly_data rfl rfl rfl rfl rfl rfl rfl rfl)⟩
  | ckVerify c =>
    exact ⟨_, rfl, orderly_ite (orderly_badParameter _) (orderly_data rfl rfl rfl rfl rfl rfl rfl rfl)⟩
  | mnEncode =>
    exact ⟨_, rfl, orderly_ite (orderly_badParameter _) (orderly_data rfl rfl rfl rfl rfl rfl rfl rfl)⟩
  | mnDecode =>
    exact ⟨_, rfl, orderly_ite (orderly_raise _ _ (by decide)) (orderly_ite (orderly_raise _ _ (by decide))
      (orderly_data rfl rfl rfl rfl rfl rfl rfl rfl))⟩
  | wlIndex slot => exact ⟨_, rfl, indexWord_orderly _ _ _⟩
  | wlWord slot => exact ⟨_, rfl, lookupWord_orderly _ _ _⟩
  | dgTodigits =>
    exact ⟨_, rfl, orderly_ite (orderly_badParameter _) (orderly_data rfl rfl rfl rfl rfl rfl rfl rfl)⟩
  | dgFromdigits =>
    refine ⟨_, rfl, orderly_ite (orderly_raise _ _ (by decide)) ?_⟩
    split
    · rename_i h
      exact orderly_error (by rw [parseDigits_error h]; decide)
    · exact orderly_data rfl rfl rfl rfl rfl rfl rfl rfl
  | ssEncode =>
    exact ⟨_, rfl, orderly_ite (orderly_badParameter _) (orderly_ite (orderly_badParameter _)
      (orderly_ite (orderly_badParameter _) (orderly_ite (orderly_badParameter _)
        (orderly_ite (orderly_badParameter _) (orderly_ite (orderly_badParameter _)
          (orderly_data rfl rfl rfl rfl rfl rfl rfl rfl))))))⟩
  | ssDecode push =>
    refine ⟨_, rfl, orderly_ite (orderly_raise _ _ (by decide)) ?_⟩
    split
    · rename_i h
      exact orderly_error (by rw [decodeShare_error h]; decide)
    · exact orderly_ite (orderly_ite (orderly_raise _ _ (by decide))
        (orderly_data rfl rfl rfl rfl rfl rfl rfl rfl)) (orderly_data rfl rfl rfl rfl rfl rfl rfl rfl)
  | ssClear => exact ⟨_, rfl, orderly_data rfl rfl rfl rfl rfl rfl rfl rfl⟩
  | ssRecover =>
    refine ⟨_, rfl, ?_⟩
    split
    · rename_i h
      exact orderly_error (by obtain h | h | h := recoverSecret_error h <;> rw [h] <;> decide)
    · exact orderly_data rfl rfl rfl rfl rfl rfl rfl rfl
  | ssGenid =>
    exact ⟨_, rfl, ⟨⟨rfl, rfl, rfl, by simp, by simp, by simp⟩, .inl ⟨rfl, rfl, rfl, rfl⟩⟩⟩
  | zeroize =>
    exact ⟨_, rfl, ⟨⟨rfl, rfl, rfl, rfl, rfl, rfl⟩, .inr ⟨rfl, rfl, rfl, rfl⟩⟩⟩

/-! ### One step -/

theorem step_events_nil {s : State} (h : s.env.events = []) : step s = stepUnit s := by
  simp [step, h]

theorem step_events_cons {s : State} {e : Event} {rest : List Event} (h : s.env.events = e :: rest) :
    step s = stepEvent e (s.withEvents rest) := by
  simp [step, h]

/-- The unit's move: idle, it does nothing; busy, it runs the pending word. -/
theorem stepUnit_cases (s : State) :
    (s.phase = .idle ∧ stepUnit s = .next s) ∨
      (∃ w, s.phase = .busy w ∧ stepUnit s = runWord w s) := by
  unfold stepUnit State.pendingWord
  cases s.phase with
  | idle => exact .inl ⟨rfl, rfl⟩
  | busy w => exact .inr ⟨w, rfl, rfl⟩

/-- A word runs as its command, or completes as illegal (R93, R95). -/
theorem runWord_cases (w : Word) (s : State) :
    (∃ i, decode w = .ok i ∧ runWord w s = exec i s) ∨
      (∃ r, decode w = .error r ∧ runWord w s = .next (s.completeIllegal r)) := by
  unfold runWord
  cases decode w with
  | ok i => exact .inl ⟨i, rfl, rfl⟩
  | error r => exact .inr ⟨r, rfl, rfl⟩

/-- The unit always moves on. -/
theorem stepUnit_next (s : State) : ∃ t, stepUnit s = .next t := by
  obtain ⟨_, h⟩ | ⟨w, _, h⟩ := stepUnit_cases s
  · exact ⟨_, h⟩
  · obtain ⟨i, _, h'⟩ | ⟨r, _, h'⟩ := runWord_cases w s
    · obtain ⟨r, hr, _⟩ := exec_finishes i s
      exact ⟨_, h.trans (h'.trans hr)⟩
    · exact ⟨_, h.trans h'⟩

end Sys2Proof.Machine
end

