-- ==== Sys2Proof/Laws/Words.lean ====
section
/-! SUPPORT. The entries of WORDS a command leaves alone (R44; log 26). -/

namespace Sys2Proof.Machine

/-- Where the command succeeds, every entry at or above the WCOUNT it leaves is unchanged (R44). -/
def KeepsTail (s : State) : CmdResult → Prop
  | .ok t => ∀ j, t.wordCount ≤ j → t.words.getD j 0 = s.words.getD j 0
  | .error _ => True

theorem keepsTail_of_words {s t : State} (h : t.words = s.words) : KeepsTail s (.ok t) :=
  fun _ _ => by rw [h]

theorem fillPoints_words (s : State) (t n l : Nat) : (s.fillPoints t n l).words = s.words := rfl

theorem drawCoef_words (s : State) (t l : Nat) : (s.drawCoef t l).words = s.words := rfl

/-- A check in front of a command keeps the property. -/
theorem keepsTail_ite {s : State} {c : Prop} [Decidable c] {a b : CmdResult} (ha : c → KeepsTail s a)
    (hb : ¬ c → KeepsTail s b) : KeepsTail s (if c then a else b) := by
  split
  · exact ha ‹_›
  · exact hb ‹_›

/-- Writing `ws` to `WORDS[0..)` with its length in WCOUNT. -/
theorem keepsTail_overwrite (s : State) (ws : List WordIndex) (n : Nat) (hn : ws.length = n) (h : n < 64) :
    KeepsTail s (.ok { s with words := overwrite s.words ws, wcount := BitVec.ofNat 6 n }) := by
  intro j hj
  have hj : n ≤ j := by simpa [State.wordCount, Nat.mod_eq_of_lt h] using hj
  by_cases h32 : j < 32
  · rw [overwrite_getD _ _ _ _ h32, if_neg (by omega)]
  · simp [Vector.getD, h32]

theorem parseDigits_length {i : Nat} {cs : List Byte} {ws : List WordIndex} (h : parseDigits i cs = .ok ws) :
    ws.length = cs.length / 4 := by
  fun_induction parseDigits i cs generalizing ws with
  | case1 => cases h
  | case2 => cases h
  | case3 => cases h
  | case4 i a b c d rest _ _ vs he ih => cases h; simp [ih he]; omega
  | case5 cs i hcs =>
    cases h
    match cs, hcs with
    | [], _ | [_], _ | [_, _], _ | [_, _, _], _ => simp
    | a :: b :: c :: d :: rest, hcs => exact absurd rfl (hcs a b c d rest)

theorem secretBytes_length {s : State} (h : s.byteLen ∈ Config.mnLens) : s.secretBytes.length = s.byteLen := by
  rw [State.secretBytes, firstOf_length]
  simp only [Config.mnLens, List.mem_cons, List.not_mem_nil, or_false] at h
  omega

/-- Every command but ZEROIZE and WL.INDEX is its rule's result, completed, and the result keeps the tail. -/
theorem exec_keepsTail (i : Instr) (s : State) (hz : i ≠ .zeroize) (hw : ∀ slot, i ≠ .wlIndex slot) :
    ∃ r, exec i s = finish s r ∧ KeepsTail s r := by
  cases i with
  | zeroize => exact absurd rfl hz
  | wlIndex slot => exact absurd rfl (hw slot)
  | mnEncode =>
    refine ⟨_, rfl, keepsTail_ite (fun _ => trivial) fun h => ?_⟩
    have h := not_not.mp h
    have hl := secretBytes_length h
    refine keepsTail_overwrite s _ _ (by simp [mnemonicWords, hl]) ?_
    simp only [Config.mnLens, List.mem_cons, List.not_mem_nil, or_false] at h
    omega
  | ssEncode =>
    refine ⟨_, rfl, keepsTail_ite (fun _ => trivial) fun h => ?_⟩
    have h := not_not.mp h
    have hl := secretBytes_length h
    refine keepsTail_ite (fun _ => trivial) fun _ => keepsTail_ite (fun _ => trivial) fun _ =>
      keepsTail_ite (fun _ => trivial) fun _ => keepsTail_ite (fun _ => trivial) fun _ =>
      keepsTail_ite (fun _ => trivial) fun _ => keepsTail_overwrite s _ _ (by simp [shareWords, hl]) ?_
    simp only [Config.mnLens, List.mem_cons, List.not_mem_nil, or_false] at h
    rw [shareWordCount]
    omega
  | dgFromdigits =>
    refine ⟨_, rfl, keepsTail_ite (fun _ => trivial) fun h => ?_⟩
    split
    · trivial
    · rename_i ws hws
      have hd : Config.digitChars = 128 := rfl
      have hl : s.digitChars.length = min s.digitCount 128 := firstOf_length _ _
      refine keepsTail_overwrite s ws _ ?_ ?_
      · rw [parseDigits_length hws]; omega
      · omega
  | shInterp t =>
    refine ⟨_, rfl, keepsTail_ite (fun _ => trivial) fun _ => keepsTail_ite (fun _ => trivial) fun _ =>
      keepsTail_ite (fun _ => trivial) fun _ => ?_⟩
    unfold State.interpolate
    split
    · trivial
    · exact keepsTail_ite (fun _ => trivial) fun _ => keepsTail_of_words rfl
  | ssDecode push =>
    refine ⟨_, rfl, keepsTail_ite (fun _ => trivial) fun _ => ?_⟩
    split
    · trivial
    · exact keepsTail_ite (fun _ => keepsTail_ite (fun _ => trivial) fun _ => keepsTail_of_words rfl)
        fun _ => keepsTail_of_words rfl
  | ssRecover =>
    refine ⟨_, rfl, ?_⟩
    split
    · trivial
    · exact fun _ _ => rfl
  | nop => exact ⟨_, rfl, keepsTail_of_words rfl⟩
  | gfAdd a b => exact ⟨_, rfl, keepsTail_of_words rfl⟩
  | gfMul a b => exact ⟨_, rfl, keepsTail_of_words rfl⟩
  | gfInv a => exact ⟨_, rfl, keepsTail_ite (fun _ => trivial) fun _ => keepsTail_of_words rfl⟩
  | shEval t x slot =>
    exact ⟨_, rfl, keepsTail_ite (fun _ => trivial) fun _ => keepsTail_ite (fun _ => trivial) fun _ =>
      keepsTail_ite (fun _ => trivial) fun _ => keepsTail_ite (fun _ => trivial) fun _ =>
      keepsTail_of_words rfl⟩
  | shGencoef t =>
    exact ⟨_, rfl, keepsTail_ite (fun _ => trivial) fun _ => keepsTail_ite (fun _ => trivial) fun _ =>
      keepsTail_of_words rfl⟩
  | shSplit t n =>
    exact ⟨_, rfl, keepsTail_ite (fun _ => trivial) fun _ => keepsTail_ite (fun _ => trivial) fun _ =>
      keepsTail_ite (fun _ => trivial) fun _ => keepsTail_of_words
        ((fillPoints_words _ _ _ _).trans (drawCoef_words _ _ _))⟩
  | shLoadpt slot =>
    exact ⟨_, rfl, keepsTail_ite (fun _ => trivial) fun _ => keepsTail_ite (fun _ => trivial) fun _ =>
      keepsTail_of_words rfl⟩
  | shStorept x slot =>
    exact ⟨_, rfl, keepsTail_ite (fun _ => trivial) fun _ => keepsTail_ite (fun _ => trivial) fun _ =>
      keepsTail_of_words rfl⟩
  | ckCompute => exact ⟨_, rfl, keepsTail_ite (fun _ => trivial) fun _ => keepsTail_of_words rfl⟩
  | ckVerify c => exact ⟨_, rfl, keepsTail_ite (fun _ => trivial) fun _ => keepsTail_of_words rfl⟩
  | mnDecode =>
    exact ⟨_, rfl, keepsTail_ite (fun _ => trivial) fun _ => keepsTail_ite (fun _ => trivial) fun _ =>
      keepsTail_of_words rfl⟩
  | wlWord slot => exact ⟨_, rfl, keepsTail_ite (fun _ => trivial) fun _ => keepsTail_of_words rfl⟩
  | dgTodigits => exact ⟨_, rfl, keepsTail_ite (fun _ => trivial) fun _ => keepsTail_of_words rfl⟩
  | ssClear => exact ⟨_, rfl, keepsTail_of_words rfl⟩
  | ssGenid => exact ⟨_, rfl, keepsTail_of_words rfl⟩

/-- The property survives completion: an error completion changes no entry. -/
theorem keepsTail_finish {s t : State} {r : CmdResult} (h : KeepsTail s r) (ht : finish s r = .next t) (j : Nat)
    (hj : t.wordCount ≤ j) : t.words.getD j 0 = s.words.getD j 0 := by
  cases ht
  cases r with
  | ok u => exact h j hj
  | error e => rfl

/-- R44's last sentence, for every command but ZEROIZE, which it excepts, and WL.INDEX, which R105 has write any
slot (log 26): no entry at or above the WCOUNT the command leaves is changed. -/
theorem words_above_count_kept {i : Instr} {s t : State} (hz : i ≠ .zeroize) (hw : ∀ slot, i ≠ .wlIndex slot)
    (h : exec i s = .next t) (j : Nat) (hj : t.wordCount ≤ j) : t.words.getD j 0 = s.words.getD j 0 := by
  obtain ⟨r, hr, hk⟩ := exec_keepsTail i s hz hw
  exact keepsTail_finish hk (hr ▸ h) j hj

/-- WL.INDEX changes no entry but that of its slot, which may stand above WCOUNT (R105; log 26). -/
theorem indexWord_keeps_other_slots {slot : Byte} {s t : State} (h : exec (.wlIndex slot) s = .next t) (j : Nat)
    (hj : j ≠ slot.toNat) : t.words.getD j 0 = s.words.getD j 0 := by
  have h : finish s (s.indexWord Config.wordList.word slot.toNat) = .next t := h
  unfold State.indexWord at h
  split at h
  · cases h; rfl
  · split at h
    · cases h
      by_cases h32 : j < 32
      · simp [Vector.getD, h32, Ne.symm hj]
      · simp [Vector.getD, h32]
    · cases h; rfl

end Sys2Proof.Machine
end

