-- ==== Sys2Proof/Machine/HostProgram.lean ====
section
/-! DEFINITION. The host side of the notation: the assembler's spellings (30_encoding.md R100), the host
program notation and the machine it runs on (R101), and the pseudo-instructions (R102). The host's registers
and program counter are the host's, not the core's, so they are no part of State. -/

namespace Sys2Proof.Machine

/-! ### Assembler (R100) -/

/-- The command a mnemonic in lower case and its operands in R100's order spell; operands are 0..255. -/
def parseSpelling (name : String) (operands : List Nat) : Option Instr :=
  if operands.all (· ≤ 255) then
    match name, operands.map (BitVec.ofNat 8) with
    | "nop", [] => some .nop
    | "gf.add", [a, b] => some (.gfAdd a b)
    | "gf.mul", [a, b] => some (.gfMul a b)
    | "gf.inv", [a] => some (.gfInv a)
    | "sh.eval", [t, x, slot] => some (.shEval t x slot)
    | "sh.gencoef", [t] => some (.shGencoef t)
    | "sh.split", [t, n] => some (.shSplit t n)
    | "sh.interp", [t] => some (.shInterp t)
    | "sh.loadpt", [slot] => some (.shLoadpt slot)
    | "sh.storept", [x, slot] => some (.shStorept x slot)
    | "ck.compute", [] => some .ckCompute
    | "ck.verify", [c] => some (.ckVerify c)
    | "mn.encode", [] => some .mnEncode
    | "mn.decode", [] => some .mnDecode
    | "wl.index", [slot] => some (.wlIndex slot)
    | "wl.word", [slot] => some (.wlWord slot)
    | "dg.todigits", [] => some .dgTodigits
    | "dg.fromdigits", [] => some .dgFromdigits
    | "ss.encode", [] => some .ssEncode
    | "ss.decode", [push] => if push.toNat ≤ 1 then some (.ssDecode push) else none
    | "ss.clear", [] => some .ssClear
    | "ss.recover", [] => some .ssRecover
    | "ss.genid", [] => some .ssGenid
    | "zeroize", [] => some .zeroize
    | _, _ => none
  else none

/-- The word a spelling assembles to (R100). -/
def assemble (name : String) (operands : List Nat) : Option Word :=
  (parseSpelling name operands).map encode

/-- `gf.sub a, b` is `gf.add a, b` (R102). -/
def gfSub (a b : Byte) : Instr := .gfAdd a b

/-- `gf.sqr a` is `gf.mul a, a` (R102). -/
def gfSqr (a : Byte) : Instr := .gfMul a a

/-! ### The host's machine (R101) -/

/-- One instruction of the host notation; `off` is a window offset, a target the index of the labelled
instruction in the program. -/
inductive HostInstr where
  | li (n : Fin 8) (imm : Word)
  | wrReg (off : BitVec 12) (n : Fin 8)
  | wrImm (off : BitVec 12) (imm : Word)
  | rd (n : Fin 8) (off : BitVec 12)
  | rdi (n m : Fin 8)
  | wri (m k : Fin 8)
  | andi (n m : Fin 8) (imm : Word)
  | addi (n m : Fin 8) (imm : Word)
  | shri (n m : Fin 8) (imm : Word)
  | shli (n m : Fin 8) (imm : Word)
  | or (n m k : Fin 8)
  | beq (n : Fin 8) (imm : Word) (target : Nat)
  | bne (n : Fin 8) (imm : Word) (target : Nat)
  | j (target : Nat)
  | halt
deriving DecidableEq, Repr

/-- The host's registers h0 to h7, its place in the program and whether it has halted. -/
structure HostCpu where
  h : Vector Word 8
  pc : Nat
  halted : Bool
deriving DecidableEq, Repr

/-- The host before its program starts; its registers are 0 (log 21). -/
def HostCpu.start : HostCpu := ⟨Vector.replicate 8 0, 0, false⟩

/-- The host and the core together. -/
structure System where
  cpu : HostCpu
  core : State
deriving DecidableEq, Repr

/-- `hN <- v`, and on to the next instruction. -/
def HostCpu.set (c : HostCpu) (n : Fin 8) (v : Word) : HostCpu :=
  { c with h := c.h.set n v, pc := c.pc + 1 }

/-- On to the next instruction. -/
def HostCpu.next (c : HostCpu) : HostCpu := { c with pc := c.pc + 1 }

/-- A branch to `target` if `taken`. -/
def HostCpu.branch (c : HostCpu) (taken : Bool) (target : Nat) : HostCpu :=
  { c with pc := if taken then target else c.pc + 1 }

/-- The value the last host read returned. -/
def State.lastReply (s : State) : Word := s.env.replies.headD 0

/-- A bus read into `hN`. -/
def System.busRead (sys : System) (n : Fin 8) (off : BitVec 12) : Host.Outcome System Fault Refusal :=
  match busAccess (.read off .word) sys.core with
  | .next s => .next ⟨sys.cpu.set n s.lastReply, s⟩
  | .fault r => .fault r
  | .refused r => .refused r

/-- A bus write of `v`. -/
def System.busWrite (sys : System) (off : BitVec 12) (v : Word) : Host.Outcome System Fault Refusal :=
  match busAccess (.write off .word v) sys.core with
  | .next s => .next ⟨sys.cpu.next, s⟩
  | .fault r => .fault r
  | .refused r => .refused r

/-- A logical shift amount of 32 or more leaves 0. -/
def shiftBy (shift : Word → Nat → Word) (v imm : Word) : Word :=
  if imm.toNat < 32 then shift v imm.toNat else 0

/-- One host instruction (R101). -/
def hostExec (i : HostInstr) (sys : System) : Host.Outcome System Fault Refusal :=
  let c := sys.cpu
  match i with
  | .li n imm => .next { sys with cpu := c.set n imm }
  | .wrReg off n => sys.busWrite off c.h[n]
  | .wrImm off imm => sys.busWrite off imm
  | .rd n off => sys.busRead n off
  | .rdi n m => sys.busRead n (c.h[m].extractLsb' 0 12)
  | .wri m k => sys.busWrite (c.h[m].extractLsb' 0 12) c.h[k]
  | .andi n m imm => .next { sys with cpu := c.set n (c.h[m] &&& imm) }
  | .addi n m imm => .next { sys with cpu := c.set n (c.h[m] + imm) }
  | .shri n m imm => .next { sys with cpu := c.set n (shiftBy (· >>> ·) c.h[m] imm) }
  | .shli n m imm => .next { sys with cpu := c.set n (shiftBy (· <<< ·) c.h[m] imm) }
  | .or n m k => .next { sys with cpu := c.set n (c.h[m] ||| c.h[k]) }
  | .beq n imm target => .next { sys with cpu := c.branch (c.h[n] == imm) target }
  | .bne n imm target => .next { sys with cpu := c.branch (c.h[n] != imm) target }
  | .j target => .next { sys with cpu := { c with pc := target } }
  | .halt => .next { sys with cpu := { c with halted := true } }

/-- Who moves: the host or the unit (R13). -/
inductive Agent where
  | host
  | unit
deriving DecidableEq, Repr

/-- One move of a system whose host runs `prog`; a halted host, and one past its program's end, does
nothing. -/
def systemStep (prog : List HostInstr) (who : Agent) (sys : System) : Host.Outcome System Fault Refusal :=
  match who with
  | .unit =>
    match stepUnit sys.core with
    | .next s => .next { sys with core := s }
    | .fault r => .fault r
    | .refused r => .refused r
  | .host =>
    if sys.cpu.halted then .next sys
    else
      match prog[sys.cpu.pc]? with
      | some i => hostExec i sys
      | none => .next sys

/-- The moves of a schedule in order. -/
def runSchedule (prog : List HostInstr) : List Agent → System → Host.Outcome System Fault Refusal
  | [], sys => .next sys
  | who :: rest, sys =>
    match systemStep prog who sys with
    | .next sys' => runSchedule prog rest sys'
    | .fault r => .fault r
    | .refused r => .refused r

/-! ### Pseudo-instructions (R101, R102) -/

/-- `cmd <spelling>`: a write of the command word to CMD. -/
def hostCmd (i : Instr) : HostInstr := .wrImm 0x004 (encode i)

/-- `wait` at program index `at'`: poll until BUSY = 0; it clobbers h7. -/
def hostWait (at' : Nat) : List HostInstr := [.rd 7 0x008, .andi 7 7 1, .bne 7 0 at']

/-- A byte sequence as little-endian bus words, the last padded with zero bytes (`wrbytes`). -/
def wordsOfBytes : List Byte → List Word
  | [] => []
  | [a] => [packBytes a 0 0 0]
  | [a, b] => [packBytes a b 0 0]
  | [a, b, c] => [packBytes a b c 0]
  | a :: b :: c :: d :: rest => packBytes a b c d :: wordsOfBytes rest

/-- `wrbytes off, b0, b1, …` (R101). A byte sequence whose words run past offset 0xFFC goes on at 0x000: the offset
is taken modulo 4096 (DESIGN CHOICE, log 27, unsafe). -/
def hostWrbytes (off : Nat) (bytes : List Byte) : List HostInstr :=
  (wordsOfBytes bytes).zipIdx.map fun w => .wrImm (BitVec.ofNat 12 (off + 4 * w.2)) w.1

/-- `gf.div a, b` at program index `at'`, with the inverse in `hN` and the word built in `hM`. Where GF.INV
reports an error (`b = 0`), the expansion stops: it branches to `stop` and issues nothing, as P1 does. The
test of STATUS.ERR uses h7, which `wait` has clobbered (DESIGN CHOICE, log 24). -/
def hostGfDiv (at' stop : Nat) (n m : Fin 8) (a b : Byte) : List HostInstr :=
  [hostCmd (.gfInv b)] ++ hostWait (at' + 1)
    ++ [.rd 7 0x008, .andi 7 7 4, .bne 7 0 stop]
    ++ [.rd n 0x014, .shli n n 16, .li m (encode (.gfMul a 0)), .or n n m, .wrReg 0x004 n]

end Sys2Proof.Machine
end

