-- ==== Sys2Proof/Machine/Facade.lean ====
section
/-! DEFINITION. The facade as host sequences over the core (47_host_sequences.md R174 to R183). A sequence
either returns its result or stops with a failure; either way the core's state is what its completed
commands wrote. `wait` is the unit's completing step: how often the host polls is not modelled (R215). -/

namespace Sys2Proof.Machine

/-- A failure a caller of the facade sees: an error code of R188 with its context (R174). -/
structure HostFailure where
  code : BitVec 8
  index : Nat
  group : Nat
deriving DecidableEq, Repr

/-- A host sequence: it works on the core's state and may fail. -/
abbrev Seq (α : Type) := EStateM HostFailure State α

/-- `fail E(ctx)` (R174). -/
def seqFail {α : Type} (e : CommandError) (index group : Nat) : Seq α := throw ⟨e.code, index, group⟩

/-- `setreg off, v` (R174). -/
def seqWrite (off : Nat) (v : Word) : Seq Unit := modify fun s => s.hostWrite off v

/-- `rd off` (R101). -/
def seqRead (off : Nat) : Seq Word := do
  modify fun s => s.hostRead off
  return (← get).lastReply

/-- `wait` (R101): the unit completes whatever command is pending. -/
def waitIdle (s : State) : State :=
  match stepUnit s with
  | .next t => t
  | .fault _ => s
  | .refused _ => s

/-- `run <spelling>` (R174): issue, wait, and stop with the reported error if STATUS.ERR = 1. -/
def seqRun (i : Instr) : Seq Unit := do
  seqWrite 0x004 (encode i)
  modify waitIdle
  let status ← seqRead 0x008
  if status.getLsbD 2 then
    let info ← seqRead 0x00C
    throw ⟨status.extractLsb' 8 8, (info.extractLsb' 0 16).toNat, (info.extractLsb' 16 8).toNat⟩

/-- `put off, B` (R174). -/
def seqPut (off : Nat) (bytes : List Byte) : Seq Unit :=
  (wordsOfBytes bytes).zipIdx.forM fun w => seqWrite (off + 4 * w.2) w.1

/-- The bytes of a bus word, lowest lane first (R68). -/
def wordLanes (v : Word) : List Byte := [byteOf v 0, byteOf v 1, byteOf v 2, byteOf v 3]

/-- `get off, n` (R174). -/
def seqGet (off n : Nat) : Seq (List Byte) := do
  let ws ← (List.range ((n + 3) / 4)).mapM fun m => seqRead (off + 4 * m)
  return (ws.flatMap wordLanes).take n

/-- Text split at each space byte 0x20 (R175); `word` holds the characters of the word being read. -/
def splitSpaces (word : List Byte) : List Byte → List (List Byte)
  | [] => [word]
  | c :: rest => if c = 0x20 then word :: splitSpaces [] rest else splitSpaces (word ++ [c]) rest

/-- `textToWords(text)` (R175). -/
def textToWords (text : List Byte) : Seq Unit := do
  let ws := splitSpaces [] text
  if 32 < ws.length then seqFail .invalidLength ws.length 0
  ws.zipIdx.forM fun w => do
    if w.1.length = 0 ∨ 8 < w.1.length then seqFail .unknownWord w.2 0
    (wordsOfBytes (w.1 ++ List.replicate (8 - w.1.length) 0)).zipIdx.forM fun v =>
      seqWrite (0x030 + 4 * v.2) v.1
    seqRun (.wlIndex (BitVec.ofNat 8 w.2))
  seqWrite 0x01C (BitVec.ofNat 32 ws.length)

/-- `wordsToText(W)` (R176). -/
def wordsToText (w : Nat) : Seq (List Byte) := do
  let ts ← (List.range w).mapM fun i => do
    seqRun (.wlWord (BitVec.ofNat 8 i))
    let a ← seqRead 0x030
    let b ← seqRead 0x034
    return (wordLanes a ++ wordLanes b).takeWhile (· ≠ 0)
  return [0x20].intercalate ts

/-- `rd 0x01C` as a count. -/
def seqWordCount : Seq Nat := return (← seqRead 0x01C).toNat

/-- `rd 0x018` as a length. -/
def seqByteLen : Seq Nat := return (← seqRead 0x018).toNat

/-- `toDigits(text)` (R177). -/
def toDigits (text : List Byte) : Seq (List Byte) := do
  textToWords text
  seqRun .dgTodigits
  let d ← seqRead 0x020
  seqGet 0x300 d.toNat

/-- `fromDigits(d)` (R177). -/
def fromDigits (d : List Byte) : Seq (List Byte) := do
  if 128 < d.length then seqFail .invalidDigitFormat d.length 1
  seqPut 0x300 d
  seqWrite 0x020 (BitVec.ofNat 32 d.length)
  seqRun .dgFromdigits
  wordsToText (← seqWordCount)

/-- The entropy of `l` bytes may be split into `k` parts (R178, C2). -/
abbrev bip39Divisible (l k : Nat) : Prop := 1 ≤ k ∧ l % k = 0 ∧ l / k ∈ Config.mnLens

/-- `deconstructBip39(E, k)` (R178). -/
def deconstructBip39 (e : List Byte) (k : Nat) : Seq (List (List Byte)) := do
  if e.length ∉ Config.mnLens then seqFail .invalidLength e.length 0
  if ¬ bip39Divisible e.length k then seqFail .indivisibleLength k 0
  let size := e.length / k
  let parts ← (List.range k).mapM fun p => do
    seqPut 0x100 ((e.drop (p * size)).take size)
    seqWrite 0x018 (BitVec.ofNat 32 size)
    seqRun .mnEncode
    wordsToText (← seqWordCount)
  seqRun .zeroize
  return parts

/-- `reconstructBip39(parts)` (R179): the entropy and its joined mnemonic. -/
def reconstructBip39 (parts : List (List Byte)) : Seq (List Byte × List Byte) := do
  let es ← parts.mapM fun part => do
    textToWords part
    seqRun .mnDecode
    seqGet 0x100 (← seqByteLen)
  let e := es.flatten
  if e.length ∉ Config.mnLens then seqFail .invalidLength (3 * e.length / 4) 0
  seqPut 0x100 e
  seqWrite 0x018 (BitVec.ofNat 32 e.length)
  seqRun .mnEncode
  let m ← wordsToText (← seqWordCount)
  seqRun .zeroize
  return (e, m)

/-- A group's member threshold and member count (R180). -/
abbrev GroupSpec := Nat × Nat

/-- The specification is legal: `1 ≤ MT ≤ MC ≤ 16` (R180). -/
abbrev groupSpecLegal (g : GroupSpec) : Prop := 1 ≤ g.1 ∧ g.1 ≤ g.2 ∧ g.2 ≤ 16

/-- The member level of `deconstructSlip39` for the group `g` of `gc` with value `v` (R180). -/
def splitGroup (gt gc g : Nat) (spec : GroupSpec) (v : List Byte) : Seq (List (List Byte)) := do
  seqPut 0x100 v
  seqRun (.shSplit (BitVec.ofNat 8 spec.1) (BitVec.ofNat 8 spec.2))
  (List.range spec.2).mapM fun i => do
    seqRun (.shLoadpt (BitVec.ofNat 8 i))
    seqWrite 0x044 (BitVec.ofNat 32 (g + gt * 2 ^ 8 + gc * 2 ^ 16))
    seqWrite 0x048 (BitVec.ofNat 32 (i + spec.1 * 2 ^ 8))
    seqRun .ssEncode
    wordsToText (← seqWordCount)

/-- `deconstructSlip39(E, GT, specs)` with the host's iteration exponent `ie`, OPEN (R180, D37, I12). -/
def deconstructSlip39 (e : List Byte) (gt : Nat) (specs : List GroupSpec) (ie : BitVec 5) :
    Seq (List (List (List Byte))) := do
  if e.length ∉ Config.mnLens then seqFail .invalidLength e.length 0
  if specs.length < 1 ∨ 16 < specs.length then seqFail .badParameter Param.gc.number 0
  if gt < 1 ∨ specs.length < gt then seqFail .badParameter Param.gt.number 0
  if ¬ ∀ g ∈ specs, groupSpecLegal g then seqFail .badParameter Param.mt.number 0
  seqRun .ssGenid
  let h ← seqRead 0x040
  seqWrite 0x040 ((h &&& 0x7FFF) ||| (ie.setWidth 32 <<< 16))
  seqPut 0x100 e
  seqWrite 0x018 (BitVec.ofNat 32 e.length)
  seqRun (.shSplit (BitVec.ofNat 8 gt) (BitVec.ofNat 8 specs.length))
  let values ← (List.range specs.length).mapM fun g => seqGet (0x800 + 32 * g) e.length
  let shares ← (specs.zip values).zipIdx.mapM fun gv =>
    splitGroup gt specs.length gv.2 gv.1.1 gv.1.2
  seqRun .zeroize
  return shares

/-- `reconstructSlip39(shares)` (R181). -/
def reconstructSlip39 (shares : List (List Byte)) : Seq (List Byte) := do
  seqRun .ssClear
  shares.forM fun share => do
    textToWords share
    seqRun (.ssDecode 1)
  seqRun .ssRecover
  let e ← seqGet 0x100 (← seqByteLen)
  seqRun .zeroize
  return e

/-! ### Digit mode (R177)

The caller passes and gets digit strings in place of mnemonic and share text; entropy stays bytes (log 25). -/

/-- The texts of digit inputs, in the caller's order, before a sequence. -/
def textsOfDigits (ds : List (List Byte)) : Seq (List (List Byte)) := ds.mapM fromDigits

/-- The digit forms of text outputs, after a sequence. -/
def digitsOfTexts (texts : List (List Byte)) : Seq (List (List Byte)) := texts.mapM toDigits

/-- `deconstructBip39` in digit mode (R177, R178). -/
def deconstructBip39Digits (e : List Byte) (k : Nat) : Seq (List (List Byte)) := do
  digitsOfTexts (← deconstructBip39 e k)

/-- `reconstructBip39` in digit mode: the entropy and the digit form of its joined mnemonic (R177, R179). -/
def reconstructBip39Digits (parts : List (List Byte)) : Seq (List Byte × List Byte) := do
  let r ← reconstructBip39 (← textsOfDigits parts)
  return (r.1, ← toDigits r.2)

/-- `deconstructSlip39` in digit mode (R177, R180). -/
def deconstructSlip39Digits (e : List Byte) (gt : Nat) (specs : List GroupSpec) (ie : BitVec 5) :
    Seq (List (List (List Byte))) := do
  (← deconstructSlip39 e gt specs ie).mapM digitsOfTexts

/-- `reconstructSlip39` in digit mode (R177, R181). -/
def reconstructSlip39Digits (shares : List (List Byte)) : Seq (List Byte) := do
  reconstructSlip39 (← textsOfDigits shares)

end Sys2Proof.Machine
end

