-- ==== Sys2Proof/Tests/Slice0.lean ====
section
/-! SUPPORT. Small tests. The expected values are those of spec/95_test_vectors.md (the vector's id stands
beside each test) or of the example in a command's rule. At the end, for every statement with hypotheses, a
concrete case that meets them. -/

namespace Sys2Proof.Tests

set_option Elab.async false

open Sys2Proof.Machine Sys2Proof.Claims

/-! ### Helpers -/

/-- The next state of an outcome. -/
def nx (o : Host.Outcome State Fault Refusal) : State :=
  match o with
  | .next t => t
  | .fault _ => State.reset
  | .refused _ => State.reset

/-- The state after the command word `w` was issued and completed. -/
def after (s : State) (w : Nat) : State := nx (step (s.withFetchWord 32 w))

/-- The command completed without an error. -/
def ok (t : State) : Bool := t.done && !t.err && t.errcode == 0 && t.phase == .idle

/-- The command completed with this error. -/
def failed (s : State) (w code index group : Nat) : Bool :=
  let t := after s w
  t.done && t.err && t.errcode.toNat == code && t.errindex.toNat == index && t.errgroup.toNat == group

/-- SECRET starts with these bytes, and LEN is their number. -/
def secretState (bs : List Byte) : State :=
  { State.reset with secret := overwrite State.reset.secret bs, len := BitVec.ofNat 6 bs.length }

/-- WORDS starts with these indices, and WCOUNT is their number. -/
def wordState (ws : List Nat) : State :=
  { State.reset with
    words := overwrite State.reset.words (ws.map (BitVec.ofNat 11))
    wcount := BitVec.ofNat 6 ws.length }

/-- DIGITS starts with these characters, and DCOUNT is their number. -/
def digitState (cs : List Byte) : State :=
  { State.reset with digits := overwrite State.reset.digits cs, dcount := BitVec.ofNat 8 cs.length }

/-- The state with these bytes ready at the random source. -/
def drawing (s : State) (bs : List Byte) : State := { s with env := { s.env with draws := bs } }

/-- The first `k` words. -/
def firstWords (t : State) (k : Nat) : List Nat := (List.range k).map fun i => (wordAt t i).toNat

/-- The first `k` y-bytes of slot `n`. -/
def slotBytes (t : State) (n k : Nat) : List Byte := (List.range k).map (pyAt t n)

/-- The first `k` bytes of SECRET. -/
def secretList (t : State) (k : Nat) : List Byte := (List.range k).map (secretAt t)

/-- The stub of the conventions of 95_test_vectors.md, at indices 0, 102 and 2047; the other entries are
made up. -/
def stub (i : WordIndex) : List Byte :=
  match i.toNat with
  | 0 => [0x61, 0x62, 0x61, 0x6E, 0x64, 0x6F, 0x6E]
  | 102 => [0x61, 0x72, 0x74]
  | 2047 => [0x7A, 0x6F, 0x6F]
  | _ => Config.sampleWord i

/-- The share of V-SS-2 in WORDS. -/
def shareState : State := wordState [291, 512, 0, 16, 0, 0, 0, 0, 0, 0, 0, 0, 0, 0, 0, 0, 70, 84, 1526]

/-- A stored share of member `mi` of a one-group 2-of-n split. -/
def entry (mi : Nat) (v : Byte) : StoreEntry := ⟨⟨7, 0, 0, 1, 1, BitVec.ofNat 4 mi, 2⟩, List.replicate 16 v⟩

/-! ### Well-formedness and decoding -/

/-- The one check of WellFormed: bits 7:1 of SS.DECODE's PUSH field are 0 (R91). -/
theorem test_wellFormed_push : (Instr.ssDecode 2).wellFormed = false ∧ (Instr.ssDecode 0x81).wellFormed = false ∧
    (Instr.ssDecode 1).wellFormed = true := by decide

/-- Words written out bit by bit from R86 and R90: F3, F2, F1, OP. -/
theorem test_decode_bits :
    decode 0b00000000_10000011_01010111_00000010 = .ok (.gfMul 0x57 0x83) ∧
    decode 0b00000011_11111111_00000010_00010000 = .ok (.shEval 2 0xFF 3) ∧
    decode 0b00000000_00000000_01100110_00100001 = .ok (.ckVerify 0x66) ∧
    decode 0b00000000_00000000_00000000_00110001 = .ok .mnDecode ∧
    decode 0b00000101_00000000_00000000_00111000 = .ok (.wlIndex 5) ∧
    decode 0b00000000_00000000_00000000_01000001 = .ok .dgFromdigits ∧
    decode 0b00000000_00000000_00000001_01010001 = .ok (.ssDecode 1) ∧
    decode 0b00000000_00000000_00000000_01111111 = .ok .zeroize := by decide

/-- Words of R90 and the vectors: field arithmetic, Shamir and checksum. -/
theorem test_decode_low :
    decode 0x00000000 = .ok .nop ∧ decode 0x00835701 = .ok (.gfAdd 0x57 0x83) ∧
    decode 0x00135702 = .ok (.gfMul 0x57 0x13) ∧ decode 0x00005303 = .ok (.gfInv 0x53) ∧
    decode 0x02030210 = .ok (.shEval 2 3 2) ∧ decode 0x00000311 = .ok (.shGencoef 3) ∧
    decode 0x00050312 = .ok (.shSplit 3 5) ∧ decode 0x00000213 = .ok (.shInterp 2) ∧
    decode 0x02000014 = .ok (.shLoadpt 2) ∧ decode 0x10010015 = .ok (.shStorept 1 16) ∧
    decode 0x00000020 = .ok .ckCompute ∧ decode 0x00006721 = .ok (.ckVerify 0x67) := by decide

/-- Words of R90 and the vectors: the codecs and control. -/
theorem test_decode_high :
    decode 0x00000030 = .ok .mnEncode ∧ decode 0x00000031 = .ok .mnDecode ∧
    decode 0x20000038 = .ok (.wlIndex 32) ∧ decode 0x00000039 = .ok (.wlWord 0) ∧
    decode 0x00000040 = .ok .dgTodigits ∧ decode 0x00000041 = .ok .dgFromdigits ∧
    decode 0x00000050 = .ok .ssEncode ∧ decode 0x00000051 = .ok (.ssDecode 0) ∧
    decode 0x00000052 = .ok .ssClear ∧ decode 0x00000053 = .ok .ssRecover ∧
    decode 0x00000054 = .ok .ssGenid ∧ decode 0x0000007F = .ok .zeroize := by decide

/-- V-GF-5 and V-SS-6: illegal words. -/
theorem test_decode_illegal :
    decode 0x00010003 = .error (.reservedField 3) ∧ decode 0x01000001 = .error (.reservedField 1) ∧
    decode 0x00000004 = .error (.reservedOpcode 4) ∧ decode 0x000000FF = .error (.reservedOpcode 0xFF) ∧
    decode 0x00000100 = .error (.reservedField 0) ∧ decode 0x00000251 = .error (.reservedField 0x51) ∧
    decode 0x00000152 = .error (.reservedField 0x52) := by decide

/-- V-GF-5: the completion of an illegal word. -/
theorem test_illegal_completion :
    failed State.reset 0x00010003 0x80 3 0 = true ∧ failed State.reset 0xFF 0x80 255 0 = true := by
  decide +kernel

/-- No two rows of the opcode table match one word: where both masks look, the patterns differ. -/
theorem test_table_rows_disjoint :
    opcodeTable.Pairwise fun a b => (a.pattern ^^^ b.pattern) &&& (a.mask &&& b.mask) ≠ 0 := by decide +kernel

/-- R100: spellings assemble to the words of the vectors. -/
theorem test_assemble :
    assemble "gf.mul" [0x57, 0x83] = some 0x00835702 ∧ assemble "sh.storept" [0, 5] = some 0x05000015 ∧
    assemble "ss.decode" [2] = none ∧ assemble "gf.add" [1, 256] = none := by decide +kernel

/-! ### Control, reset and the bus -/

/-- R185's example: a stale error report is cleared. -/
theorem test_nop : after (after State.reset 0x00000003) 0 =
    { State.reset with done := true, cmd := 0 } := by decide +kernel

/-- R186's example: STATUS reads DONE only. -/
theorem test_zeroize : (after (secretState [1, 2, 3]) 0x7F).statusWord = 0x00000002 ∧
    (after (secretState [1, 2, 3]) 0x7F).secret = State.reset.secret ∧
    (after (secretState [1, 2, 3]) 0x7F).cmd = 0x7F := by decide +kernel

/-- R60: SECRET's bus word 1 holds bytes 4 to 7, the lowest in bits 7:0. -/
theorem test_bus_bytes : (State.reset.hostWrite 0x104 0x44332211).secret.getD 5 0 = 0x22 ∧
    (State.reset.hostWrite 0x404 0x44332211).secret.getD 7 0 = 0x44 ∧
    (secretState [0x11, 0x22, 0x33, 0x44]).windowWord 0x400 = 0x44332211 := by decide +kernel

/-- R61: a WORDS entry takes 11 bits of the word written. -/
theorem test_bus_words : (State.reset.hostWrite 0x27C 0xFFFFFFFF).windowWord 0x27C = 0x000007FF := by
  decide +kernel

/-- R39, R40: reserved bits of the SHF registers read 0. -/
theorem test_bus_shf : (State.reset.hostWrite 0x040 0xFFFFFFFF).windowWord 0x040 = 0x001F7FFF ∧
    (State.reset.hostWrite 0x044 0xFFFFFFFF).windowWord 0x044 = 0x001F1F0F := by decide +kernel

/-- R74: a write while busy only sets OVR; R28: it is cleared by a later write of 1. -/
theorem test_overrun : ((State.reset.issue 0).hostWrite 0x018 5) = { State.reset.issue 0 with ovr := true } ∧
    ({ State.reset with ovr := true }.hostWrite 0x008 8).ovr = false := by decide +kernel

/-- R28: clearing ERR leaves ERRCODE (V-GF-4's report). -/
theorem test_status_w1c : (after State.reset 3).statusWord = 0x00000406 ∧
    ((after State.reset 3).hostWrite 0x008 4).statusWord = 0x00000402 := by decide +kernel

/-- R71: an unaligned access is refused. -/
theorem test_unaligned : step (State.reset.withEvents [.access (.read 0x001 .word)]) =
    .refused .unacceptedAccess := rfl

/-- R206: reset abandons the command, and an overlapping read still gets some value. -/
theorem test_reset_input :
    step ((State.reset.issue 0x03).withEvents [.reset none]) = .next State.reset ∧
    (nx (step ((State.reset.issue 0x03).withEvents [.reset (some (.read 0x018 .word))]))).phase = .idle := by
  exact ⟨rfl, rfl⟩

/-! ### GF -/

/-- V-GF-1. -/
theorem test_gfAdd : (after State.reset 0x00835701).result = 0xD4 ∧
    (after State.reset 0x00575701).result = 0x00 := by decide +kernel

/-- V-GF-2. -/
theorem test_gfMul : (after State.reset 0x00835702).result = 0xC1 ∧
    (after State.reset 0x00800202).result = 0x1B ∧ (after State.reset 0x00FFFF02).result = 0x13 := by
  decide +kernel

/-- V-GF-3. -/
theorem test_gfInv : (after State.reset 0x00005303).result = 0xCA ∧
    (after State.reset 0x0000FF03).result = 0x1C := by decide +kernel

/-- V-GF-4: RESULT keeps 0x83. -/
theorem test_gfInv_zero : failed (after State.reset 0x00008003) 0x00000003 0x04 0 0 = true ∧
    (after (after State.reset 0x00008003) 3).result = 0x83 := by decide +kernel

/-! ### Shamir -/

/-- The start of V-SH-1. -/
def evalState : State :=
  { secretState [0x12, 0x34] with
    coef := State.reset.coef.set 0 (overwrite (Vector.replicate 32 0) [0xAA, 0xBB]) }

/-- V-SH-1. -/
theorem test_shEval : slotBytes (after evalState 0x01020210) 1 3 = [0x5D, 0x59, 0] ∧
    (after evalState 0x03FF0210).pointX 3 = 0xFF ∧
    slotBytes (after evalState 0x03FF0210) 3 2 = [0xF9, 0x49] := by decide +kernel

/-- V-SH-1, errors: the threshold first. -/
theorem test_shEval_errors : failed evalState 0x10000010 0x81 1 0 = true ∧
    failed evalState 0x00000210 0x81 2 0 = true ∧ failed evalState 0x10010210 0x81 3 0 = true := by
  decide +kernel

/-- V-SH-5. -/
theorem test_shGencoef :
    (after (drawing (secretState [0, 0]) [0x10, 0x11, 0x12, 0x13, 0x14]) 0x00000311).coefByte 2 0 = 0x12 ∧
    (after (drawing (secretState [0, 0]) [0x10, 0x11, 0x12, 0x13, 0x14]) 0x00000311).env.draws = [0x14] := by
  decide +kernel

/-- V-SH-2. -/
def splitState : State := after (drawing (secretState [0x12, 0x34]) [0xAA, 0xBB]) 0x00030212

theorem test_shSplit : splitState.npts = 3 ∧ splitState.pointX 2 = 3 ∧
    slotBytes splitState 2 2 = [0xF7, 0xE2] ∧ splitState.env.draws = [] := by decide +kernel

/-- V-SH-2, errors. -/
theorem test_shSplit_errors : failed (secretState [1]) 0x00020312 0x81 2 0 = true ∧
    failed (secretState [1]) 0x00110112 0x81 2 0 = true ∧ failed State.reset 0x00030212 0x81 0x10 0 = true := by
  decide +kernel

/-- V-SH-3: the split's points give the secret back. -/
theorem test_shInterp : secretList (after { splitState with secret := Vector.replicate 32 0 } 0x00000213) 3 =
    [0x12, 0x34, 0] := by decide +kernel

/-- V-SH-3: an identical duplicate is merged, a differing one is an error. -/
theorem test_shInterp_duplicates :
    failed { splitState with npts := 2, px := splitState.px.set 1 1, py := splitState.py.set 1 splitState.py[0] }
      0x00000213 0x05 1 0 = true ∧
    failed { splitState with npts := 2, px := splitState.px.set 1 1 } 0x00000213 0x06 1 0 = true := by
  decide +kernel

/-- V-SH-6. -/
theorem test_shLoadpt : secretList (after splitState 0x02000014) 2 = [0xF7, 0xE2] ∧
    failed splitState 0x10000014 0x81 3 0 = true := by decide +kernel

/-- V-SH-6. -/
theorem test_shStorept : slotBytes (after (after splitState 0x02000014) 0x05000015) 5 2 = [0xF7, 0xE2] ∧
    (after (after splitState 0x02000014) 0x05000015).npts = 3 := by decide +kernel

/-! ### Checksum and mnemonic -/

/-- R110: the two digests the spec gives. -/
theorem test_sha256 :
    sha256 (List.replicate 32 0) =
      [0x66, 0x68, 0x7a, 0xad, 0xf8, 0x62, 0xbd, 0x77, 0x6c, 0x8f, 0xc1, 0x8b, 0x8e, 0x9f, 0x8e, 0x20,
        0x08, 0x97, 0x14, 0x85, 0x6e, 0xe2, 0x33, 0xb3, 0x90, 0x2a, 0x59, 0x1d, 0x0d, 0x5f, 0x29, 0x25] ∧
    sha256 (List.replicate 16 0) =
      [0x37, 0x47, 0x08, 0xff, 0xf7, 0x71, 0x9d, 0xd5, 0x97, 0x9e, 0xc8, 0x75, 0xd5, 0x6c, 0xd2, 0x28,
        0x6f, 0x6d, 0x3c, 0xf7, 0xec, 0x31, 0x7a, 0x3b, 0x25, 0x63, 0x2a, 0xab, 0x28, 0xec, 0x37, 0xbb] := by
  decide +kernel

/-- V-CK-1, V-CK-2. -/
theorem test_ckCompute : (after (secretState (List.replicate 20 0)) 0x20).cksum = 0x1B ∧
    (after (secretState [0, 1, 2, 3]) 0x20).cksum = 0 ∧ failed (secretState [0]) 0x20 0x81 0x10 0 = true := by
  decide +kernel

/-- V-CK-3. -/
theorem test_ckVerify : (after (secretState (List.replicate 32 0)) 0x00006621).result = 1 ∧
    (after (secretState (List.replicate 4 0)) 0x00000221).result = 0 := by decide +kernel

/-- V-MN-2. -/
theorem test_mnEncode : firstWords (after (secretState ((List.range 16).map (BitVec.ofNat 8))) 0x30) 13 =
    [0, 64, 1030, 64, 643, 28, 257, 266, 88, 771, 540, 251, 0] := by decide +kernel

/-- V-MN-2 back. -/
theorem test_mnDecode :
    secretList (after (wordState [0, 64, 1030, 64, 643, 28, 257, 266, 88, 771, 540, 251]) 0x31) 16 =
      (List.range 16).map (BitVec.ofNat 8) := by decide +kernel

/-- V-MN-5, and V-MN-6 on a 12-word mnemonic. -/
theorem test_mnDecode_errors : failed (wordState (List.replicate 13 0)) 0x31 0x02 13 0 = true ∧
    failed (wordState (1 :: List.replicate 10 0 ++ [3])) 0x31 0x03 11 0 = true := by decide +kernel

/-! ### Word list: the shared operations on the stub list, and the commands where the ROM plays no part -/

/-- WT = "ABANDON" (V-WL-1). -/
def upperState : State :=
  { State.reset with wt := overwrite State.reset.wt [0x41, 0x42, 0x41, 0x4E, 0x44, 0x4F, 0x4E] }

/-- The error of a result, if any. -/
def errorOf (r : CmdResult) : Option Report :=
  match r with
  | .ok _ => none
  | .error e => some e

/-- V-WL-1, rows 2 and 6. -/
theorem test_wlIndex :
    (upperState.indexWord stub 5).toOption = some { upperState with result := 0, words := upperState.words.set 5 0 } ∧
    errorOf ({ State.reset with wt := overwrite State.reset.wt [0x61, 0x62, 0x61, 0x6E, 0x64] }.indexWord stub 5) =
      some ⟨.unknownWord, 5, 0⟩ := by decide +kernel

/-- V-WL-2. -/
theorem test_wlWord : ((wordState [2047]).lookupWord stub 0).toOption.map (·.windowWord 0x030) =
    some 0x006F6F7A := by decide +kernel

/-- V-WL-3: no ROM is read. -/
theorem test_wl_slot_errors : failed State.reset 0x20000038 0x81 3 0 = true ∧
    failed State.reset 0x20000039 0x81 3 0 = true := by decide +kernel

/-! ### Digits -/

/-- "0000000320470102". -/
def digitText : List Byte :=
  [0x30, 0x30, 0x30, 0x30, 0x30, 0x30, 0x30, 0x33, 0x32, 0x30, 0x34, 0x37, 0x30, 0x31, 0x30, 0x32]

/-- V-DG-1. -/
theorem test_dgTodigits : (after (wordState [0, 3, 2047, 102]) 0x40).dcount = 16 ∧
    (after (wordState [0, 3, 2047, 102]) 0x40).windowWord 0x308 = 0x37343032 ∧
    failed { State.reset with wcount := 33 } 0x40 0x81 0x11 0 = true := by decide +kernel

/-- V-DG-1 back. -/
theorem test_dgFromdigits : firstWords (after (digitState digitText) 0x41) 4 = [0, 3, 2047, 102] := by
  decide +kernel

/-- V-DG-3. -/
theorem test_dgFromdigits_errors : failed (digitState (digitText.set 5 0x78)) 0x41 0x0B 1 2 = true ∧
    failed (digitState (digitText.set 11 0x38)) 0x41 0x0B 2 3 = true ∧
    failed { digitState digitText with dcount := 132 } 0x41 0x0B 132 1 = true := by decide +kernel

/-! ### Shares -/

/-- V-SS-1. -/
theorem test_crc32 : crc32 [] = 0 ∧ crc32 [false] = 0x04C11DB6 ∧ crc32 [true] = 1 ∧
    crc32 (bytesBits [0x31, 0x32, 0x33, 0x34, 0x35, 0x36, 0x37, 0x38, 0x39]) = 0xFC891918 := by decide +kernel

/-- V-SS-2. -/
theorem test_ssEncode :
    (after { secretState (List.replicate 16 0) with shf := ⟨0x1234, 0, 0, 1, 1, 0, 2⟩ } 0x50).words =
      shareState.words := by decide +kernel

/-- V-SS-3: 31 words at the field maxima, so 341 bits (log 23). -/
theorem test_ssEncode_max :
    firstWords (after { secretState (List.replicate 32 0xFF) with shf := ⟨0x7FFF, 31, 15, 16, 16, 15, 16⟩ } 0x50) 31 =
      [2047, 2047, 2047, 2032, 7] ++ List.replicate 23 2047 ++ [513, 616, 1532] := by decide +kernel

/-- V-SS-4. -/
theorem test_ssEncode_errors : failed (secretState (List.replicate 16 0)) 0x50 0x81 0x23 0 = true ∧
    failed { secretState (List.replicate 16 0) with shf := ⟨0, 0, 0, 2, 1, 0, 1⟩ } 0x50 0x81 0x22 0 = true := by
  decide +kernel

/-- V-SS-5. -/
theorem test_ssDecode : (after shareState 0x151).shf = ⟨0x1234, 0, 0, 1, 1, 0, 2⟩ ∧
    (after shareState 0x151).len = 16 ∧
    (after shareState 0x151).store = [⟨⟨0x1234, 0, 0, 1, 1, 0, 2⟩, List.replicate 16 0⟩] ∧
    (after shareState 0x051).store = [] := by decide +kernel

/-- V-SS-5: one bit flipped; V-SS-12: the store is full. -/
theorem test_ssDecode_errors :
    failed { shareState with words := shareState.words.set 5 1, store := [entry 0 0] } 0x151 0x07 1 1 = true ∧
    failed { shareState with store := List.replicate 256 (entry 0 0) } 0x151 0x82 256 0 = true := by
  decide +kernel

/-- V-SS-11. -/
theorem test_ssClear : (after { State.reset with store := [entry 0 0, entry 1 0, entry 2 0] } 0x52).store = [] := by
  decide +kernel

/-- V-SS-10. -/
theorem test_ssGenid : (after (drawing State.reset [0xD2, 0x04]) 0x54).shf.id = 0x5204 ∧
    (after (drawing State.reset [0xFF, 0xFF]) 0x54).shf.id = 0x7FFF := by decide +kernel

/-- S11: members 0 and 1 of the all-zero secret, COEF[1] bytes 3. -/
theorem test_ssRecover :
    ok (after { secretState [9] with store := [entry 0 3, entry 1 6] } 0x53) = true ∧
    secretList (after { secretState [9] with store := [entry 0 3, entry 1 6] } 0x53) 16 = List.replicate 16 0 ∧
    failed { State.reset with store := [entry 0 3] } 0x53 0x08 0 1 = true := by decide +kernel

/-- V-SS-8: sub-code 2 before the duplicate of slot 2, and a differing duplicate member. -/
theorem test_ssRecover_errors :
    failed { State.reset with store := [entry 0 3, { entry 1 6 with fields := { (entry 1 6).fields with ie := 1 } }] }
      0x53 0x09 1 2 = true ∧
    failed { State.reset with store := [entry 0 3, entry 1 6, entry 1 7] } 0x53 0x06 2 0 = true := by
  decide +kernel

/-! ### Host programs -/

/-- Program P1 with the operand of GF.INV left open: `gf.div 0x57, b`, the result in h0, the report on an
error. -/
def divProgram (b : Byte) : List HostInstr :=
  hostGfDiv 0 17 2 3 0x57 b ++ hostWait 12 ++ [.rd 0 0x014, .halt] ++ [.rd 0 0x00C, .rd 1 0x008, .halt]

/-- What a system shows after a schedule: h0 to h3, STATUS and CMD. -/
def shown (o : Host.Outcome System Fault Refusal) : Option (List Word) :=
  match o with
  | .next sys => some [sys.cpu.h[0], sys.cpu.h[1], sys.cpu.h[2], sys.cpu.h[3], sys.core.statusWord, sys.core.cmd]
  | .fault _ => none
  | .refused _ => none

/-- P1: 0x57 · ginv(0x83) = 0x38; the word is built in hN = h2 as R102 has it (P1 builds it in h3). -/
theorem test_gfDiv :
    shown (runSchedule (divProgram 0x83)
      ([.host, .unit] ++ List.replicate 11 .host ++ [.unit] ++ List.replicate 5 .host)
      ⟨HostCpu.start, State.reset⟩) = some [0x38, 0, 0x00805702, 0x00005702, 0x00000002, 0x00805702] := by
  decide +kernel

/-- P1z: for b = 0 the expansion stops and no GF.MUL is issued. -/
theorem test_gfDiv_zero :
    shown (runSchedule (divProgram 0) ([.host, .unit] ++ List.replicate 9 .host) ⟨HostCpu.start, State.reset⟩) =
      some [0, 0x00000406, 0, 0, 0x00000406, 0x00000003] := by decide +kernel

/-- The failure of a sequence, if any. -/
def seqFailure {α : Type} (r : EStateM.Result HostFailure State α) : Option (BitVec 8 × Nat × Nat) :=
  match r with
  | .ok _ _ => none
  | .error e _ => some (e.code, e.index, e.group)

/-- R177 in digit mode: the digit form of a share is checked before the sequence starts (R171, V-DG-3). -/
theorem test_digit_mode :
    seqFailure ((reconstructSlip39Digits [[0x39, 0x39, 0x39, 0x39]]).run State.reset) = some (0x0B, 0, 3) ∧
    seqFailure ((reconstructBip39Digits [List.replicate 129 0x30]).run State.reset) = some (0x0B, 129, 1) := by
  decide +kernel

/-- V-FC-2: a part of 8 bytes is no mnemonic length; the host's own code, before any command. -/
theorem test_deconstructBip39 :
    seqFailure ((deconstructBip39 (List.replicate 16 0) 2).run State.reset) = some (0x0A, 2, 0) := by
  decide +kernel

/-! ### Cases that meet the hypotheses of the statements -/

/-- A command always gives a next state. -/
theorem exec_nx (i : Instr) (s : State) : exec i s = .next (nx (exec i s)) := by
  obtain ⟨r, h, -⟩ := exec_finishes i s
  rw [h]; rfl

/-- A state whose LEN is `l`. -/
def lenState (l : Nat) : State := { State.reset with len := BitVec.ofNat 6 l }

/-- A state whose coming moves are `es`. -/
def moves (es : List Event) : State := State.reset.withEvents es

/-- A busy state whose coming moves are `es`. -/
def busyMoves (w : Word) (es : List Event) : State := (State.reset.issue w).withEvents es

theorem reset_inv : State.reset.Inv where
  storeBound := by decide
  storeValid := fun _ h => nomatch h
  busyClear := fun _ h => nomatch h
  codeReportable := by decide
  errHasCode := by decide
  infoHasCode := by decide
  resultWidth := by decide

theorem witness_ResetLeavesTheSpecValues :
    (lenState 16).shf = State.reset.shf ∧ (lenState 16).byteLen ∈ [16, 20, 24, 28, 32] ∧
      (lenState 32).byteLen ∈ [16, 20, 24, 28, 32] := by decide

theorem witness_ResetInputAppliesResetValues :
    (busyMoves 3 [.reset none]).env.events = .reset none :: [] ∧
    (moves [.reset (some (.read 0x018 .word)), .unit]).env.events =
      .reset (some (.read 0x018 .word)) :: [.unit] := by decide

theorem witness_StepRunsThePendingCommand :
    (UnitMoves (busyMoves 0x00575701 []) (busyMoves 0x00575701 []) ∧
      (busyMoves 0x00575701 []).phase = .busy 0x00575701 ∧ decode 0x00575701 = .ok (.gfAdd 0x57 0x57)) ∧
    (UnitMoves (moves [.unit]) (moves []) ∧ (moves [.unit]).phase = .idle) ∧
    (Instr.ssDecode 1).wellFormed = true :=
  ⟨⟨.inl ⟨rfl, rfl⟩, rfl, rfl⟩, ⟨.inr ⟨[], rfl, rfl⟩, rfl⟩, rfl⟩

/-- The edges of the reserved ranges, and no OP both in the table and reserved. -/
theorem witness_IllegalWordsAreReported :
    (mustBeZero (0x51 : Byte).toNat = some (0xFE, 0xFF, 0xFF) ∧ (0x02 : Byte) &&& 0xFE ≠ 0 ∧
      (busyMoves (0#8 ++ 0#8 ++ 2#8 ++ 0x51#8) []).phase = .busy (0#8 ++ 0#8 ++ 2#8 ++ 0x51#8) ∧
      UnitMoves (busyMoves 0x251 []) (busyMoves 0x251 [])) ∧
    (∀ n ∈ [0x04, 0x0F, 0x16, 0x1F, 0x22, 0x2F, 0x32, 0x37, 0x3A, 0x3F, 0x42, 0x4F, 0x55, 0x7E, 0x80, 0xFF],
      reservedOp n) ∧
    (∀ n ∈ List.range 256, (mustBeZero n).isSome = true → ¬ reservedOp n) := by
  refine ⟨⟨rfl, by decide, rfl, .inl ⟨rfl, rfl⟩⟩, ?_, ?_⟩
  · unfold reservedOp; decide
  · unfold reservedOp; decide +kernel

theorem witness_decoded : decode 0 = .ok .nop ∧ (Instr.ssDecode 0).wellFormed = true := by decide

theorem witness_EveryStepKeepsTheInvariant :
    State.reset.Inv ∧ step (moves [.access (.write 0x004 .word 0x03)]) = .next (State.reset.issue 3) ∧
      step State.reset = .next State.reset := ⟨reset_inv, rfl, rfl⟩

theorem witness_StepStopsOnlyOnUnacceptedAccess :
    ¬ aligned32 (.read 0x001 .word) ∧ ¬ aligned32 (.write 0x004 .half 0) ∧
    aligned32 (.read 0xFFC .word) ∧
    (moves [.access (.read 0x001 .word)]).env.events = .access (.read 0x001 .word) :: [] := by
  simp [aligned32, moves, State.withEvents]

/-- CMD, STATUS, a busy write at the ends of the window, busy and idle reads, an idle data write. -/
theorem witness_bus :
    (moves [.access (.write 0x004 .word 7)]).env.events = .access (.write 0x004 .word 7) :: [] ∧
    (moves [.access (.write 0x008 .word 6)]).phase = .idle ∧
    (moves [.access (.write 0x008 .word 6)]).env.events = .access (.write 0x008 .word 6) :: [] ∧
    (busyMoves 0 [.access (.write 0xFFC .word 6)]).phase = .busy 0 ∧
    (busyMoves 0 [.access (.write 0xFFC .word 6)]).env.events = .access (.write 0xFFC .word 6) :: [] ∧
    (busyMoves 0 [.access (.read 0x008 .word)]).env.events = .access (.read 0x008 .word) :: [] ∧
    (0xFFC : BitVec 12).toNat % 4 = 0 ∧ (0x008 : BitVec 12).toNat % 4 = 0 ∧
    (moves [.access (.read 0x018 .word)]).env.events = .access (.read 0x018 .word) :: [] ∧
    (0x040 : BitVec 12) ≠ 0x004 ∧ (0x040 : BitVec 12) ≠ 0x008 ∧
    (moves [.access (.write 0x040 .word 6)]).env.events = .access (.write 0x040 .word 6) :: [] ∧
    (0x018 : BitVec 12).toNat % 4 = 0 ∧ (0x018 : BitVec 12) ≠ 0x040 := by decide

/-- A word that is the alias of none other, and one that has an alias (R63). -/
theorem witness_aliased : ¬ aliased 0x040 0x018 ∧ aliased 0x100 0x400 ∧ aliased 0x41C 0x11C := by
  simp [aliased]

theorem witness_RegistersReadTheirFields : State.reset.store.length ≤ 256 ∧
    (busyMoves 5 []).phase = .busy 5 := by decide

/-- The edges of the reserved offsets. -/
theorem witness_ReservedOffsets :
    (∀ off ∈ [0x038, 0x03C, 0x04C, 0x0FC, 0x120, 0x1FC, 0x280, 0x2FC, 0x380, 0x3FC, 0x610, 0x7FC, 0xA00, 0xFFC],
      reservedOffset off ∧ off % 4 = 0) ∧
    State.reset.phase = .idle ∧ (busyMoves 5 []).phase = .busy 5 := by
  unfold reservedOffset; decide

theorem witness_IrqIsEnabledCompletion :
    exec .nop State.reset = .next { State.reset with done := true } ∧ (2 : Word).getLsbD 1 = true ∧
      State.reset.phase = .idle := ⟨rfl, by decide, rfl⟩

theorem witness_error : State.reset.err = false ∧ State.reset.errcode = 0 ∧ State.reset.errindex = 0 ∧
    State.reset.errgroup = 0 ∧ exec (.gfInv 0) State.reset = .next (nx (exec (.gfInv 0) State.reset)) ∧
    (nx (exec (.gfInv 0) State.reset)).err = true := ⟨rfl, rfl, rfl, rfl, exec_nx _ _, rfl⟩

theorem witness_OnlyNamedCommandsWrite :
    exec (.gfInv 0) State.reset = .next (nx (exec (.gfInv 0) State.reset)) ∧ Instr.gfInv 0 ≠ .zeroize ∧
    Instr.gfInv 0 ≠ .mnDecode := ⟨exec_nx _ _, by decide, by decide⟩

theorem witness_gf : (1 : Byte) ≠ 0 ∧ gmul 1 1 = 1 ∧ gpow 3 0 = 1 ∧ (2 : Byte).toNat < 3 ∧
    exec (.gfAdd 5 5) State.reset = .next (nx (exec (.gfAdd 5 5) State.reset)) :=
  ⟨by decide, by decide, rfl, by decide, exec_nx _ _⟩

/-- Thresholds, slots and lengths at both ends of their ranges, and just outside. -/
theorem witness_shamir_parameters :
    ¬ (1 ≤ (0 : Byte).toNat ∧ (0 : Byte).toNat ≤ 16) ∧ ¬ (1 ≤ (17 : Byte).toNat ∧ (17 : Byte).toNat ≤ 16) ∧
    1 ≤ (1 : Byte).toNat ∧ (16 : Byte).toNat ≤ 16 ∧ (0 : Byte) = 0 ∧ (1 : Byte) ≠ 0 ∧
    15 < (16 : Byte).toNat ∧ (15 : Byte).toNat ≤ 15 ∧
    ¬ (1 ≤ (lenState 0).byteLen ∧ (lenState 0).byteLen ≤ 32) ∧
    ¬ (1 ≤ (lenState 33).byteLen ∧ (lenState 33).byteLen ≤ 32) ∧
    1 ≤ (lenState 1).byteLen ∧ (lenState 1).byteLen ≤ 32 ∧ (lenState 32).byteLen ≤ 32 ∧
    ((17 : Byte).toNat < 1 ∨ 16 < (17 : Byte).toNat ∨ (17 : Byte).toNat < (1 : Byte).toNat) ∧
    ((2 : Byte).toNat < 1 ∨ 16 < (2 : Byte).toNat ∨ (2 : Byte).toNat < (3 : Byte).toNat) := by decide

/-- Slots 0 and 1 at x = 1; slot 1's y is `y`. -/
def twoPoints (y : Byte) : State :=
  { lenState 1 with
    npts := 2
    px := (State.reset.px.set 0 1).set 1 1
    py := State.reset.py.set 1 (State.reset.py[1].set 0 y) }

theorem witness_ShInterp_parameters :
    16 < ({ State.reset with npts := 17 } : State).npts.toNat ∧
    ({ State.reset with npts := 16 } : State).npts.toNat ≤ 16 := by decide

theorem witness_ShInterp_conflict : (1 < (twoPoints 9).npts.toNat ∧ conflictsAt (twoPoints 9) 1 ∧
    ∀ m < 1, ¬ conflictsAt (twoPoints 9) m) := by
  refine ⟨by decide, ⟨0, by decide⟩, fun m hm h => ?_⟩
  obtain ⟨k, hk, -⟩ := h
  omega

theorem witness_ShInterp_points :
    (∀ k < (twoPoints 0).npts.toNat, ¬ conflictsAt (twoPoints 0) k) ∧
    (freshSlots (twoPoints 0)).length < (2 : Byte).toNat ∧
    (1 : Byte).toNat ≤ (freshSlots (twoPoints 0)).length := by
  refine ⟨fun k hk h => ?_, by decide, by decide⟩
  obtain ⟨m, hm, -, hne⟩ := h
  have hk2 : k < 2 := hk
  obtain rfl : m = 0 := by omega
  obtain rfl : k = 1 := by omega
  exact hne (by decide)

/-- One point of the zero polynomial at x = 1, for t = 1 and t = 2. -/
theorem witness_AnyThresholdOfPointsRebuildsTheSecret :
    let v : State := { lenState 1 with npts := 1, px := State.reset.px.set 0 1 }
    v.len = (lenState 1).len ∧ 1 ≤ (lenState 1).byteLen ∧ (lenState 1).byteLen ≤ 32 ∧ v.npts.toNat ≤ 16 ∧
    (∀ k < v.npts.toNat, v.pointX k ≠ 0 ∧ ∀ j < (lenState 1).byteLen,
      pyAt v k j = (lenState 1).peval 1 (v.pointX k) j ∧ pyAt v k j = (lenState 1).peval 2 (v.pointX k) j) ∧
    (1 : Byte).toNat ≤ ((List.range v.npts.toNat).map v.pointX).toFinset.card ∧
    ((List.range v.npts.toNat).map v.pointX).toFinset.card < (2 : Byte).toNat := by decide +kernel

theorem witness_lengths :
    (lenState 5).byteLen ∉ [4, 8, 12, 16, 20, 24, 28, 32] ∧
    (∀ l ∈ [4, 8, 12, 16, 20, 24, 28, 32], (lenState l).byteLen ∈ [4, 8, 12, 16, 20, 24, 28, 32]) ∧
    (List.replicate 4 (0 : Byte)).length ∈ [4, 8, 12, 16, 20, 24, 28, 32] ∧
    (lenState 12).byteLen ∉ [16, 20, 24, 28, 32] ∧
    (∀ l ∈ [16, 20, 24, 28, 32], (lenState l).byteLen ∈ [16, 20, 24, 28, 32]) := by decide

theorem witness_CkVerify :
    (3 : Byte).toNat = cs ((List.range (lenState 16).byteLen).map (secretAt (lenState 16))) ∧
    (4 : Byte).toNat ≠ cs ((List.range (lenState 16).byteLen).map (secretAt (lenState 16))) ∧
    2 ^ ((lenState 16).byteLen / 4) ≤ (16 : Byte).toNat := by decide +kernel

/-- The all-zero mnemonic with its right last word, and with a wrong one. -/
theorem witness_MnDecode :
    (wordState [0]).wordCount ∉ [12, 15, 18, 21, 24] ∧
    (∀ last ∈ [3, 4],
      let s := wordState (List.replicate 11 0 ++ [last])
      let e := List.replicate 16 (0 : Byte)
      s.wordCount ∈ [12, 15, 18, 21, 24] ∧ e.length = 4 * s.wordCount / 3 ∧
      (∀ j < e.length, ∀ b < 8, (e.getD j 0).getLsbD b = wordsBit s (8 * j + (7 - b))) ∧
      (wordsField s (8 * e.length) (11 * s.wordCount) = cs e ↔ last = 3)) := by decide +kernel

theorem witness_MnemonicRoundTrip :
    let s := wordState (List.replicate 11 0 ++ [3])
    exec .mnEncode (lenState 16) = .next (nx (exec .mnEncode (lenState 16))) ∧ s.err = false ∧
    exec .mnDecode s = .next (nx (exec .mnDecode s)) ∧ (nx (exec .mnDecode s)).err = false :=
  ⟨exec_nx _ _, rfl, exec_nx _ _, by decide +kernel⟩

theorem lower_entry (i : WordIndex) (k : Nat) :
    lower ((Config.wordList.word i).getD k 0) = (Config.wordList.word i).getD k 0 := by
  rcases Nat.lt_or_ge k (Config.wordList.word i).length with h | h
  · have := Config.wordList.lowerCase i _ (List.getElem_mem h)
    simp only [List.getD_eq_getElem?_getD, List.getElem?_eq_getElem h, Option.getD_some, lower]
    rw [if_neg (by omega)]
  · simp [List.getD_eq_getElem?_getD, List.getElem?_eq_none h, lower]

/-- WT holds the ROM's entry 0. -/
noncomputable def wordZero : State :=
  { State.reset with wt := Vector.ofFn fun k => (Config.wordList.word 0).getD k 0 }

theorem witness_WlIndex_match :
    (∀ k < 8, lower (wordZero.wt.getD k 0) = (Config.wordList.word 0).getD k 0) ∧
    (31 : Byte).toNat ≤ 31 ∧ 31 < (32 : Byte).toNat := by
  refine ⟨fun k hk => ?_, by decide, by decide⟩
  have : wordZero.wt.getD k 0 = (Config.wordList.word 0).getD k 0 := by
    simp [wordZero, Vector.getD, hk]
  rw [this, lower_entry]

/-- An all-zero WT matches no entry. -/
theorem witness_WlIndex_none : ∀ i : WordIndex, ∃ k < 8,
    lower (State.reset.wt.getD k 0) ≠ (Config.wordList.word i).getD k 0 := by
  intro i
  refine ⟨0, by decide, fun h => ?_⟩
  have hs := (Config.wordList.size i).1
  have hl := Config.wordList.lowerCase i _ (List.getElem_mem hs)
  rw [List.getD_eq_getElem?_getD, List.getElem?_eq_getElem hs] at h
  simp only [Option.getD_some] at h
  rw [← h] at hl
  revert hl
  decide

theorem pad8_key (i : WordIndex) (wt : Vector Byte 8)
    (h : ∀ k < 8, lower (wt.getD k 0) = (Config.wordList.word i).getD k 0) :
    pad8 (Config.wordList.word i) = wordKey wt := by
  have hs := Config.wordList.size i
  apply List.ext_getElem
  · simp only [pad8, wordKey, List.length_append, List.length_replicate, List.length_map,
      Vector.length_toList]
    omega
  intro k h1 h2
  have h8 : k < 8 := by simpa [wordKey] using h2
  have hw : (wordKey wt)[k] = lower (wt.getD k 0) := by simp [wordKey, Vector.getD, h8]
  refine Eq.trans ?_ (hw.trans (h k h8)).symm
  rw [List.getD_eq_getElem?_getD]
  simp only [pad8, List.getElem_append]
  split
  · rename_i h
    rw [List.getElem?_eq_getElem h]; rfl
  · rename_i h
    rw [List.getElem?_eq_none (by omega)]; simp

theorem witness_WordLookupsAreInverse :
    exec (.wlWord 31) State.reset = .next (nx (exec (.wlWord 31) State.reset)) ∧
    wordZero.err = false ∧ exec (.wlIndex 0) wordZero = .next (nx (exec (.wlIndex 0) wordZero)) ∧
    (nx (exec (.wlIndex 0) wordZero)).err = false := by
  refine ⟨exec_nx _ _, rfl, exec_nx _ _, ?_⟩
  have h : (findWord Config.wordList.word (wordKey wordZero.wt)).isSome = true := by
    rw [findWord, List.find?_isSome]
    exact ⟨0, by rw [wordIndices, List.mem_map]; exact ⟨0, by simp, rfl⟩, by
      rw [pad8_key 0 wordZero.wt witness_WlIndex_match.1]; exact beq_self_eq_true _⟩
  obtain ⟨i, hi⟩ := Option.isSome_iff_exists.mp h
  have : exec (.wlIndex 0) wordZero = finish wordZero (wordZero.indexWord Config.wordList.word 0) := rfl
  rw [this, State.indexWord, if_neg (by decide), hi]
  rfl

theorem witness_Dg :
    32 < (wordState (List.replicate 33 0)).wordCount ∧ (wordState (List.replicate 32 0)).wordCount ≤ 32 ∧
    exec .dgTodigits State.reset = .next (nx (exec .dgTodigits State.reset)) ∧ State.reset.err = false ∧
    exec .dgFromdigits (digitState digitText) = .next (nx (exec .dgFromdigits (digitState digitText))) ∧
    (nx (exec .dgFromdigits (digitState digitText))).err = false :=
  ⟨by decide, by decide, exec_nx _ _, rfl, exec_nx _ _, by decide +kernel⟩

/-- Widths 3, 128 and 132; a non-digit at word 0; 2048 at word 0; all good. -/
theorem witness_DgFromdigits :
    ((3 : Byte).toNat % 4 ≠ 0 ∨ 128 < (3 : Byte).toNat) ∧ 128 < (132 : Byte).toNat ∧
    (128 : Byte).toNat % 4 = 0 ∧
    (let good := fun (s : State) i => ∀ k < 4, 0x30 ≤ (digitAt s (4 * i + k)).toNat ∧ (digitAt s (4 * i + k)).toNat ≤ 0x39
     let value := fun (s : State) i => 1000 * ((digitAt s (4 * i)).toNat - 0x30) +
       100 * ((digitAt s (4 * i + 1)).toNat - 0x30) + 10 * ((digitAt s (4 * i + 2)).toNat - 0x30) +
       ((digitAt s (4 * i + 3)).toNat - 0x30)
     ¬ good (digitState [0x30, 0x30, 0x30, 0x3A]) 0 ∧
     (good (digitState [0x32, 0x30, 0x34, 0x38]) 0 ∧ 2047 < value (digitState [0x32, 0x30, 0x34, 0x38]) 0) ∧
     ∀ i < 4, good (digitState digitText) i ∧ value (digitState digitText) i ≤ 2047) := by decide +kernel

/-- LEN = `l` and the given GI, GT, GC and MT. -/
def sharing (l : Nat) (gi : BitVec 4) (gt gc mt : BitVec 5) : State :=
  { lenState l with shf := ⟨0, 0, gi, gt, gc, 0, mt⟩ }

/-- Two states SS.ENCODE accepts, at the ends of the ranges, and states that fail LEN, GC, GT, MT, GI and GT again,
each the first check it fails. -/
theorem witness_SsEncode :
    let lenOk := fun s : State => s.byteLen ∈ [16, 20, 24, 28, 32]
    let gcOk := fun s : State => 1 ≤ s.shf.gc.toNat ∧ s.shf.gc.toNat ≤ 16
    let gtOk := fun s : State => 1 ≤ s.shf.gt.toNat ∧ s.shf.gt.toNat ≤ 16
    let mtOk := fun s : State => 1 ≤ s.shf.mt.toNat ∧ s.shf.mt.toNat ≤ 16
    let giOk := fun s : State => s.shf.gi.toNat < s.shf.gc.toNat
    (∀ s ∈ [sharing 16 15 16 16 16, sharing 32 0 1 1 1], encodable s) ∧
    ¬ lenOk (sharing 12 0 1 1 1) ∧
    (∀ s ∈ [sharing 16 0 1 0 1, sharing 16 0 1 17 1], lenOk s ∧ ¬ gcOk s) ∧
    (∀ s ∈ [sharing 16 0 0 1 1, sharing 16 0 17 1 1], lenOk s ∧ gcOk s ∧ ¬ gtOk s) ∧
    (∀ s ∈ [sharing 16 0 1 1 0, sharing 16 0 1 1 17], lenOk s ∧ gcOk s ∧ gtOk s ∧ ¬ mtOk s) ∧
    (let s := sharing 16 1 1 1 1
     lenOk s ∧ gcOk s ∧ gtOk s ∧ mtOk s ∧ ¬ giOk s) ∧
    (let s := sharing 16 0 2 1 1
     lenOk s ∧ gcOk s ∧ gtOk s ∧ mtOk s ∧ giOk s ∧ s.shf.gc.toNat < s.shf.gt.toNat) := by
  unfold encodable; decide

/-- The start of V-SS-2. -/
def shareStart : State := { lenState 16 with shf := ⟨0x1234, 0, 0, 1, 1, 0, 2⟩ }

theorem witness_ShareRoundTrip :
    let u := nx (exec .ssEncode shareStart)
    encodable shareStart ∧ exec .ssEncode shareStart = .next u ∧ u.store.length < 256 :=
  ⟨by unfold encodable; decide, exec_nx _ _, by decide +kernel⟩

/-- The first and the last word of the share of V-SS-2 changed. -/
theorem witness_ChangedWordIsDetected :
    let u := nx (exec .ssEncode shareStart)
    encodable shareStart ∧ exec .ssEncode shareStart = .next u ∧
    ∀ k ∈ [0, 18], k < 7 + 3 * shareStart.byteLen / 4 ∧
      (let v : State := { u with words := u.words.setIfInBounds k 5 }
       (∀ i < 32, i ≠ k → wordAt v i = wordAt u i) ∧ wordAt v k ≠ wordAt u k ∧ v.wcount = u.wcount) :=
  ⟨by unfold encodable; decide, exec_nx _ _, by decide +kernel⟩

/-- The bits of words 0 to 18 packed from a bit string. -/
def packed (bs : BitString) : State := wordState ((List.range 19).map fun i => num (slice bs (11 * i) (11 * i + 11)))

/-- The share whose header is `f`, with pad bits set where `pad` says, and a right CRC. -/
def forged (f : ShareFields) (pad : Nat) : State :=
  let msg := shareHeader f ++ bitsOf 4 pad ++ List.replicate 128 false
  packed (msg ++ [false] ++ bitsOf 32 (crc32 msg).toNat)

/-- SS.DECODE's outcomes: a count it refuses, a wrong CRC, a pad bit, GI not below GC, GT above GC, a good
share, and a full store. -/
theorem witness_SsDecode :
    let crcOk := fun s : State => wordsBit s 176 = false ∧
      wordsField s 177 209 = (crc32 ((List.range 176).map (wordsBit s))).toNat
    let fields := fun s : State => (wordsField s 40 48, wordsField s 20 24, wordsField s 24 28 + 1, wordsField s 28 32 + 1)
    (wordState [0]).wordCount ∉ [19, 22, 25, 28, 31] ∧ shareState.wordCount ∈ [19, 22, 25, 28, 31] ∧
    (∀ w ∈ [19, 22, 25, 28, 31], 4 * (w - 7) / 3 ∈ [16, 20, 24, 28, 32]) ∧
    ¬ crcOk (wordState (List.replicate 19 0)) ∧
    (crcOk (forged ⟨0, 0, 0, 1, 1, 0, 1⟩ 1) ∧ (fields (forged ⟨0, 0, 0, 1, 1, 0, 1⟩ 1)).1 ≠ 0) ∧
    (crcOk (forged ⟨0, 0, 1, 1, 1, 0, 1⟩ 0) ∧ fields (forged ⟨0, 0, 1, 1, 1, 0, 1⟩ 0) = (0, 1, 1, 1)) ∧
    (crcOk (forged ⟨0, 0, 0, 2, 1, 0, 1⟩ 0) ∧ fields (forged ⟨0, 0, 0, 2, 1, 0, 1⟩ 0) = (0, 0, 2, 1)) ∧
    (crcOk shareState ∧ fields shareState = (0, 0, 1, 1)) ∧
    ({ shareState with store := List.replicate 256 (entry 0 0) } : State).store.length = 256 ∧
    shareState.store.length < 256 := by decide +kernel

/-- SS.RECOVER's outcomes: a disagreeing entry, a group threshold mismatch, a member conflict, too few groups,
and a recovery. -/
theorem witness_SsRecover :
    (disagreement (entry 0 0) { entry 0 0 with fields := { (entry 0 0).fields with id := 8 } } = some 1 ∧
      disagreement (entry 0 0) (entry 1 3) = none) ∧
    ((entry 0 0).fields.gi.toNat = 0 ∧ groupSlots [entry 0 0, entry 1 3] 0 = [0, 1] ∧
      groupMt [entry 0 0, entry 1 3] 0 = 2) ∧
    (let st := [entry 0 0, { entry 1 3 with fields := { (entry 1 3).fields with mt := 3 } }]
     1 ∈ groupSlots st 0 ∧ (entryAt st 1).fields.mt.toNat ≠ groupMt st 0 ∧
       ∀ k < 2, disagreement (entryAt st 0) (entryAt st k) = none) ∧
    (let st := [entry 0 0, entry 0 1]
     0 ∈ groupSlots st 0 ∧ (entryAt st 0).fields.mi = (entryAt st 1).fields.mi ∧
       (entryAt st 0).value ≠ (entryAt st 1).value) ∧
    (resolvedGroups [entry 0 0]).length < (entryAt [entry 0 0] 0).fields.gt.toNat ∧
    (entryAt [entry 0 0, entry 1 3] 0).fields.gt.toNat ≤ (resolvedGroups [entry 0 0, entry 1 3]).length := by
  decide +kernel

theorem witness_SsRecover_agrees :
    storeAgrees [entry 0 3, entry 1 6] ∧ ∀ g < 16, groupClean [entry 0 3, entry 1 6] g := by
  unfold storeAgrees groupClean groupAgrees memberConflict
  decide +kernel

/-- A one-group 2-of-n split of the zero secret: COEF[1] bytes 3, members 0 and 1; two shares resolve the group,
one does not. -/
theorem witness_GroupRecoveryIsCorrect :
    let f : ShareFields := ⟨7, 0, 0, 1, 1, 0, 0⟩
    let b : Nat → Nat → Nat → Byte := fun _ k _ => if k = 1 then 3 else 0
    let resolved := fun st : List StoreEntry => ((List.range 16).filter fun g =>
      2 ≤ ((st.filter fun e => e.fields.gi.toNat = g).map fun e => e.fields.mi).toFinset.card).length
    1 ≤ f.gt.toNat ∧
    (∀ g < 16, ∀ j < 16, b g 0 j = polyAt (fun _ => 0) f.gt.toNat (BitVec.ofNat 8 (g + 1))) ∧
    (∀ e ∈ [entry 0 3, entry 1 6], e.fields.id = f.id ∧ e.fields.ie = f.ie ∧ e.fields.gc = f.gc ∧
      e.fields.gt = f.gt ∧ e.fields.mt.toNat = 2 ∧
      e.value = (List.range 16).map fun j =>
        polyAt (fun k => b e.fields.gi.toNat k j) 2 (e.fields.mi.setWidth 8 + 1)) ∧
    f.gt.toNat ≤ resolved [entry 0 3, entry 1 6] ∧ resolved [entry 0 3] < f.gt.toNat := by
  decide +kernel

/-- Bits 10 and 11 of the share of V-SS-2 changed, on both sides of a word boundary. -/
theorem witness_ErrorBurstIsDetected :
    let u := nx (exec .ssEncode shareStart)
    let v : State := { u with words := (u.words.set 0 (u.words[0] ^^^ 1)).set 1 (u.words[1] ^^^ 0x400) }
    encodable shareStart ∧ exec .ssEncode shareStart = .next u ∧
    (∀ i ∈ List.range 209, i < 10 ∨ 10 + 32 ≤ i → wordsBit v i = wordsBit u i) ∧
    11 * (7 + 3 * shareStart.byteLen / 4) = 209 ∧ wordsBit v 10 ≠ wordsBit u 10 ∧
    wordsBit v 11 ≠ wordsBit u 11 ∧ v.wcount = u.wcount :=
  ⟨by unfold encodable; decide, exec_nx _ _, by decide +kernel, by decide, by decide +kernel,
    by decide +kernel, rfl⟩

end Sys2Proof.Tests
end

section
/-! PROOFS. Reserved offsets of the bus window (10_state.md R42; 20_memory.md R66, R74). -/

namespace Sys2Proof.Machine

open Sys2Proof.Claims

/-! ### A host write, by phase -/

theorem State.hostWrite_idle {s : State} (off : Nat) (v : Word) (h : s.phase = .idle) :
    s.hostWrite off v = s.windowWrite off v := by
  simpa [h] using hostWrite_cases s off v

theorem State.hostWrite_busy {s : State} {w : Word} (off : Nat) (v : Word) (h : s.phase = .busy w) :
    s.hostWrite off v = { s with ovr := true } := by
  simpa [h] using hostWrite_cases s off v

/-! ### Reserved offsets -/

/-- A reserved offset lies in the register page or in one of the gaps between and after the buffers. -/
theorem reservedOffset_cases {off : Nat} (h : reservedOffset off) :
    off < 0x100 ∨ (0x120 ≤ off ∧ off < 0x200) ∨ (0x280 ≤ off ∧ off < 0x300) ∨
      (0x380 ≤ off ∧ off < 0x400) ∨ (0x610 ≤ off ∧ off < 0x800) ∨ 0xA00 ≤ off := by
  unfold reservedOffset at h
  omega

/-- No register of the map sits at a reserved offset: only the default arm is left. -/
theorem State.readRegister_reserved (s : State) {off : Nat} (h : reservedOffset off) :
    s.readRegister off = 0 := by
  unfold reservedOffset at h
  fun_cases State.readRegister s off
  case case18 => rfl
  all_goals omega

theorem State.writeRegister_reserved (s : State) {off : Nat} (v : Word) (h : reservedOffset off) :
    s.writeRegister off v = s := by
  unfold reservedOffset at h
  fun_cases State.writeRegister s off v
  case case13 => rfl
  all_goals omega

theorem State.windowWord_reserved (s : State) {off : Nat} (h : reservedOffset off) :
    s.windowWord off = 0 := by
  unfold State.windowWord
  obtain hreg | hgap | hgap | hgap | hgap | hgap := reservedOffset_cases h
  · rw [if_pos hreg, s.readRegister_reserved h]
  all_goals simp (disch := omega) only [if_pos, if_neg]

theorem State.windowWrite_reserved (s : State) {off : Nat} (v : Word) (h : reservedOffset off) :
    s.windowWrite off v = s := by
  unfold State.windowWrite
  obtain hreg | hgap | hgap | hgap | hgap | hgap := reservedOffset_cases h
  · rw [if_pos hreg, s.writeRegister_reserved v h]
  all_goals simp (disch := omega) only [if_pos, if_neg]

/-- Settles O18: a reserved offset has no storage behind it, so it reads 0 and an idle write there changes
nothing; a busy write sets OVR whatever its offset (R74). -/
theorem reservedOffsetsReadZeroAndIgnoreWrites : Obligations.ReservedOffsetsReadZeroAndIgnoreWrites :=
  fun s off v hres _ =>
    ⟨s.windowWord_reserved hres,
      fun hidle => (State.hostWrite_idle off v hidle).trans (s.windowWrite_reserved v hres),
      fun _ hbusy => State.hostWrite_busy off v hbusy⟩

end Sys2Proof.Machine
end

section
/-! PROOFS. The word-list unit (40_wordlist.md R104, R106). -/

namespace Sys2Proof.Machine

open Sys2Proof.Claims

/-! ### Command words with unused fields -/

/-- A mask that covers a field asks for the whole field to be 0. -/
theorem and_fullMask (b : Byte) : b &&& 0xFF = b := BitVec.and_allOnes

/-- A mask that covers nothing asks for nothing. -/
theorem and_emptyMask (b : Byte) : b &&& 0x00 = 0 := BitVec.and_zero

/-- A decoded command with the two unused fields `f` and `g`: legal exactly when both are 0 (R91). -/
theorem withUnusedZero_pair (op f g : Byte) (i : Instr) :
    withUnusedZero op [f, g] i = if f = 0 ∧ g = 0 then .ok i else .error (.reservedField op) := by
  simp [withUnusedZero]

theorem decode_wlWord (f1 f2 slot : Byte) :
    decode (commandWord 0x39 f1 f2 slot) = withUnusedZero 0x39 [f1, f2] (.wlWord slot) := by
  simp [decode]

theorem wlWord_encodesAs : EncodesAs 0x39 0xFF 0xFF 0x00 (fun _ _ slot => .wlWord slot) := by
  intro f1 f2 f3
  simp only [and_fullMask, and_emptyMask, and_true]
  exact (decode_wlWord f1 f2 f3).trans (withUnusedZero_pair 0x39 f1 f2 (.wlWord f3))

/-! ### Padding to 8 bytes -/

theorem pad8_length {w : List Byte} (h : w.length ≤ 8) : (pad8 w).length = 8 := by
  simp [pad8, h]

/-- Past its end a list reads as 0, which is what padding adds. -/
theorem pad8_getD (w : List Byte) (k : Nat) : (pad8 w).getD k 0 = w.getD k 0 := by
  obtain hk | hk := Nat.lt_or_ge k w.length
  · exact List.getD_append _ _ _ _ hk
  · rw [pad8, List.getD_append_right _ _ _ _ hk, List.getD_eq_getElem?_getD,
      List.getElem?_getD_replicate_default_eq, List.getD_eq_default _ _ hk]

/-- A padded text of at most 8 characters fills WT whole (R104, R106). -/
theorem overwrite_pad8_getD (wt : Vector Byte 8) {w : List Byte} (hw : w.length ≤ 8) {k : Nat} (hk : k < 8) :
    (overwrite wt (pad8 w)).getD k 0 = w.getD k 0 := by
  rw [overwrite_getD _ _ _ _ hk, pad8_length hw, if_pos hk, pad8_getD]

/-! ### WL.WORD -/

theorem exec_wlWord (slot : Byte) (s : State) :
    exec (.wlWord slot) s = finish s (s.lookupWord Config.wordList.word slot.toNat) := rfl

theorem State.lookupWord_badSlot (s : State) (word : WordIndex → List Byte) {slot : Nat} (h : 31 < slot) :
    s.lookupWord word slot = badParameter .f3 := if_pos h

theorem State.lookupWord_goodSlot (s : State) (word : WordIndex → List Byte) {slot : Nat} (h : slot ≤ 31) :
    s.lookupWord word slot = .ok { s with wt := overwrite s.wt (pad8 (word (wordAt s slot))) } :=
  if_neg (Nat.not_lt.mpr h)

/-- Settles O47: the slot check decides between the report and the write, and an entry of at most 8
characters (R51), padded, fills WT whole. -/
theorem wlWordWritesTheText : Obligations.WlWordWritesTheText := by
  refine ⟨wlWord_encodesAs, fun slot s => ⟨fun hbad => ?_, fun hgood => ?_⟩⟩
  · rw [RefusesParam, Reports, exec_wlWord, s.lookupWord_badSlot _ hbad]
    rfl
  · have hsize := (Config.wordList.size (wordAt s slot.toNat)).2
    rw [exec_wlWord, s.lookupWord_goodSlot _ hgood]
    exact ⟨_, rfl, fun k hk => overwrite_pad8_getD s.wt hsize hk, rfl⟩

end Sys2Proof.Machine
end

section
/-! PROOFS. The checksum engine (41_checksum.md R109, R111, R112). -/

namespace Sys2Proof.Machine

open Sys2Proof.Claims

/-! ### Command words -/

/-- A decoded command with all three fields unused: legal exactly when all are 0 (R91). -/
theorem withUnusedZero_triple (op f g h : Byte) (i : Instr) :
    withUnusedZero op [f, g, h] i =
      if f = 0 ∧ g = 0 ∧ h = 0 then .ok i else .error (.reservedField op) := by
  simp [withUnusedZero]

theorem decode_ckCompute (f1 f2 f3 : Byte) :
    decode (commandWord 0x20 f1 f2 f3) = withUnusedZero 0x20 [f1, f2, f3] .ckCompute := by
  simp [decode]

theorem decode_ckVerify (c f2 f3 : Byte) :
    decode (commandWord 0x21 c f2 f3) = withUnusedZero 0x21 [f2, f3] (.ckVerify c) := by
  simp [decode]

theorem ckCompute_encodesAs : EncodesAs 0x20 0xFF 0xFF 0xFF (fun _ _ _ => .ckCompute) := by
  intro f1 f2 f3
  simp only [and_fullMask]
  exact (decode_ckCompute f1 f2 f3).trans (withUnusedZero_triple 0x20 f1 f2 f3 .ckCompute)

theorem ckVerify_encodesAs : EncodesAs 0x21 0x00 0xFF 0xFF (fun c _ _ => .ckVerify c) := by
  intro f1 f2 f3
  simp only [and_fullMask, and_emptyMask, true_and]
  exact (decode_ckVerify f1 f2 f3).trans (withUnusedZero_pair 0x21 f2 f3 (.ckVerify f1))

/-! ### The bytes the checksum reads -/

/-- `B[0..k)` of a buffer that holds `k` elements, element by element. -/
theorem firstOf_eq_map_range {α : Type} {n : Nat} (buf : Vector α n) {k : Nat} (d : α) (h : k ≤ n) :
    firstOf buf k = (List.range k).map fun j => buf.getD j d := by
  have hlen : (firstOf buf k).length = k := by rw [firstOf_length, Nat.min_eq_left h]
  apply List.ext_getElem
  · rw [hlen, List.length_map, List.length_range]
  · intro j hj _
    rw [List.getElem_map, List.getElem_range, ← firstOf_getD buf k j d (hlen ▸ hj),
      List.getD_eq_getElem _ _ hj]

theorem State.secretBytes_eq_map {s : State} (h : s.byteLen ≤ 32) :
    s.secretBytes = (List.range s.byteLen).map (secretAt s) :=
  firstOf_eq_map_range s.secret 0 h

/-- CK_LENS ends at the size of SECRET (R12). -/
theorem le_32_of_mem_ckLens : ∀ l ∈ Config.ckLens, l ≤ 32 := by decide

/-! ### The checksum's size -/

/-- A checksum fits in `L/4` bits, whatever the digest (R109). -/
theorem cs_lt_two_pow (e : List Byte) : cs e < 2 ^ (e.length / 4) :=
  (num_lt _).trans_le (Nat.pow_le_pow_right Nat.two_pos (List.length_take_le _ _))

/-- The checksum of a length of CK_LENS fits in the 8 bits of CKSUM (R109). -/
theorem cs_lt_256 {e : List Byte} (h : e.length ≤ 32) : cs e < 2 ^ 8 :=
  (cs_lt_two_pow e).trans_le (Nat.pow_le_pow_right Nat.two_pos (by omega))

/-! ### CK.COMPUTE -/

theorem ckCompute_refusesLen {s : State} (h : s.byteLen ∉ Config.ckLens) :
    RefusesParam .ckCompute s 0x10 :=
  congrArg (finish s) (if_pos h)

theorem exec_ckCompute {s : State} (h : s.byteLen ∈ Config.ckLens) :
    exec .ckCompute s =
      .next { s with cksum := BitVec.ofNat 8 (cs s.secretBytes), done := true, phase := .idle } :=
  congrArg (finish s) (if_neg (not_not_intro h))

/-- Settles O41: the LEN check decides between the report and the write, and the 8 bits of CKSUM lose nothing of
a checksum of at most `32/4` bits. -/
theorem ckComputeWritesTheChecksum : Obligations.CkComputeWritesTheChecksum := by
  refine ⟨ckCompute_encodesAs, fun s => ⟨ckCompute_refusesLen, fun hlen => ⟨_, exec_ckCompute hlen, ?_, rfl⟩⟩⟩
  have hle : s.byteLen ≤ 32 := le_32_of_mem_ckLens _ hlen
  rw [State.secretBytes_eq_map hle, BitVec.toNat_ofNat]
  exact Nat.mod_eq_of_lt (cs_lt_256 (by simpa using hle))

/-! ### CK.VERIFY -/

theorem ckVerify_refusesLen {c : Byte} {s : State} (h : s.byteLen ∉ Config.ckLens) :
    RefusesParam (.ckVerify c) s 0x10 :=
  congrArg (finish s) (if_pos h)

theorem exec_ckVerify {c : Byte} {s : State} (h : s.byteLen ∈ Config.ckLens) :
    exec (.ckVerify c) s =
      .next { s with
        result := if c.toNat = cs s.secretBytes then 1 else 0
        done := true
        phase := .idle } :=
  congrArg (finish s) (if_neg (not_not_intro h))

/-- Settles O42: RESULT is the comparison's outcome, and a `c` with a bit at or above `L/4` is above every
checksum of `L` bytes. -/
theorem ckVerifyAnswersOneOrZero : Obligations.CkVerifyAnswersOneOrZero := by
  refine ⟨ckVerify_encodesAs, fun c s => ⟨ckVerify_refusesLen, fun hlen =>
    ⟨_, exec_ckVerify hlen, ?_, ?_, ?_, rfl⟩⟩⟩
  all_goals rw [State.secretBytes_eq_map (le_32_of_mem_ckLens _ hlen)]
  · exact fun heq => if_pos heq
  · exact fun hne => if_neg hne
  · intro hhigh
    have hlt := cs_lt_two_pow ((List.range s.byteLen).map (secretAt s))
    rw [List.length_map, List.length_range] at hlt
    exact if_neg (hlt.trans_le hhigh).ne'

end Sys2Proof.Machine
end

section
/-! PROOFS. Bit strings as groups of equal width (00_scope.md R15): the byte strings and the concatenated word
indices of the codecs, read bit by bit, joined and cut again. -/

namespace Sys2Proof.Machine

/-! ### One bit of a string -/

theorem bitsOf_getD (n v : Nat) {k : Nat} (h : k < n) : (bitsOf n v).getD k false = v.testBit (n - 1 - k) := by
  simp [bitsOf, List.getD, h]

/-- A string's bits are its number's, most significant first (R15). -/
theorem testBit_num (s : BitString) {k : Nat} (h : k < s.length) :
    (num s).testBit (s.length - 1 - k) = s.getD k false := by
  rw [← bitsOf_getD s.length (num s) h, bitsOf_num]

theorem slice_length (s : BitString) {i j : Nat} (h : j ≤ s.length) : (slice s i j).length = j - i := by
  simp only [slice, List.length_take, List.length_drop]
  omega

theorem slice_getD (s : BitString) {i j k : Nat} (h : k < j - i) :
    (slice s i j).getD k false = s.getD (i + k) false := by
  simp [slice, List.getD, h]

/-- A slice, position by position. -/
theorem slice_eq_map_range (s : BitString) {i j : Nat} (h : j ≤ s.length) :
    slice s i j = (List.range (j - i)).map fun k => s.getD (i + k) false := by
  apply List.ext_getElem
  · rw [slice_length s h, List.length_map, List.length_range]
  · intro k hk _
    rw [List.getElem_map, List.getElem_range, ← slice_getD s (slice_length s h ▸ hk), List.getD_eq_getElem _ _ hk]

/-! ### Groups of `w` bits -/

/-- The groups' bit strings one after the other: `bytesBits` at width 8, `joinWords` at width 11. -/
def joinGroups {w : Nat} (xs : List (BitVec w)) : BitString := xs.flatMap fun x => bitsOf w x.toNat

/-- The first `n` groups of a bit string: `sliceBytes` at width 8, `sliceWords` at width 11. -/
def cutGroups (w : Nat) (s : BitString) (n : Nat) : List (BitVec w) :=
  (List.range n).map fun i => BitVec.ofNat w (num (slice s (w * i) (w * i + w)))

theorem bytesBits_eq_joinGroups (bs : List Byte) : bytesBits bs = joinGroups bs := rfl

theorem joinWords_eq_joinGroups (ws : List WordIndex) : joinWords ws = joinGroups ws := rfl

theorem sliceBytes_eq_cutGroups (s : BitString) (n : Nat) : sliceBytes s n = cutGroups 8 s n := rfl

theorem sliceWords_eq_cutGroups (s : BitString) (n : Nat) : sliceWords s n = cutGroups 11 s n := rfl

variable {w : Nat}

theorem joinGroups_cons (x : BitVec w) (xs : List (BitVec w)) :
    joinGroups (x :: xs) = bitsOf w x.toNat ++ joinGroups xs := List.flatMap_cons

theorem joinGroups_length (xs : List (BitVec w)) : (joinGroups xs).length = w * xs.length := by
  induction xs with
  | nil => rfl
  | cons x xs ih => rw [joinGroups_cons, List.length_append, bitsOf_length, ih, List.length_cons]; ring

theorem cutGroups_length (s : BitString) (n : Nat) : (cutGroups w s n).length = n := by simp [cutGroups]

theorem bitsOf_toNat_getD (x : BitVec w) {k : Nat} (h : k < w) :
    (bitsOf w x.toNat).getD k false = x.getLsbD (w - 1 - k) := bitsOf_getD w x.toNat h

/-- Bit `p` of joined groups is in group `p / w`, counted from that group's most significant bit. -/
theorem joinGroups_getD (hw : 0 < w) (xs : List (BitVec w)) (p : Nat) :
    (joinGroups xs).getD p false = (xs.getD (p / w) 0).getLsbD (w - 1 - p % w) := by
  induction xs generalizing p with
  | nil => simp [joinGroups]
  | cons x xs ih =>
    rw [joinGroups_cons]
    obtain hp | hp := Nat.lt_or_ge p w
    · rw [List.getD_append _ _ _ _ (by rwa [bitsOf_length]), bitsOf_toNat_getD x hp, Nat.div_eq_of_lt hp,
        Nat.mod_eq_of_lt hp, List.getD_cons_zero]
    · obtain ⟨q, rfl⟩ := Nat.exists_eq_add_of_le hp
      rw [List.getD_append_right _ _ _ _ (by rwa [bitsOf_length]), bitsOf_length, Nat.add_sub_cancel_left, ih,
        Nat.add_div_left _ hw, Nat.add_mod_left, List.getD_cons_succ]

/-- Bit `b` of the `i`-th group cut from a string. -/
theorem cutGroups_getD_getLsbD (s : BitString) {n i b : Nat} (hn : w * n ≤ s.length) (hi : i < n) (hb : b < w) :
    ((cutGroups w s n).getD i 0).getLsbD b = s.getD (w * i + (w - 1 - b)) false := by
  have hend : w * i + w ≤ s.length := (Nat.mul_le_mul_left w hi).trans hn
  have hlen : (slice s (w * i) (w * i + w)).length = w := by rw [slice_length s hend]; omega
  have hgroup : (cutGroups w s n).getD i 0 = BitVec.ofNat w (num (slice s (w * i) (w * i + w))) := by
    simp [cutGroups, List.getD, hi]
  have hbit := testBit_num (slice s (w * i) (w * i + w)) (k := w - 1 - b) (by omega)
  rw [hlen, show w - 1 - (w - 1 - b) = b by omega] at hbit
  rw [hgroup, BitVec.getLsbD_ofNat, hbit, slice_getD s (by omega)]
  simp [hb]

/-- Groups are equal when all their bits are. -/
theorem groups_ext {xs ys : List (BitVec w)} (hlen : xs.length = ys.length)
    (h : ∀ i < xs.length, ∀ b < w, (xs.getD i 0).getLsbD b = (ys.getD i 0).getLsbD b) : xs = ys := by
  apply List.ext_getElem hlen
  intro i hx hy
  have hi := h i hx
  rw [List.getD_eq_getElem _ _ hx, List.getD_eq_getElem _ _ hy] at hi
  exact BitVec.eq_of_getLsbD_eq hi

/-- Cutting joined groups, whatever follows them, gives the groups back. -/
theorem cutGroups_joinGroups_append (xs : List (BitVec w)) (t : BitString) :
    cutGroups w (joinGroups xs ++ t) xs.length = xs := by
  refine groups_ext (cutGroups_length _ _) fun i hi b hb => ?_
  rw [cutGroups_length] at hi
  have hlast : w * i + w ≤ (joinGroups xs).length := by
    rw [joinGroups_length]
    exact Nat.mul_le_mul_left w hi
  rw [cutGroups_getD_getLsbD _ (by simp [joinGroups_length]) hi hb, List.getD_append _ _ _ _ (by omega),
    joinGroups_getD (by omega), Nat.mul_add_div (by omega), Nat.div_eq_of_lt (by omega), Nat.mul_add_mod,
    Nat.mod_eq_of_lt (by omega), Nat.add_zero, show w - 1 - (w - 1 - b) = b by omega]

theorem cutGroups_joinGroups (xs : List (BitVec w)) : cutGroups w (joinGroups xs) xs.length = xs := by
  simpa using cutGroups_joinGroups_append xs []

/-- A group cut from a string spells that part of the string. -/
theorem bitsOf_ofNat_num {s : BitString} (h : s.length = w) : bitsOf w (BitVec.ofNat w (num s)).toNat = s := by
  subst h
  rw [BitVec.toNat_ofNat, Nat.mod_eq_of_lt (num_lt s), bitsOf_num]

/-- Joining the groups cut from a string gives the part they were cut from. -/
theorem joinGroups_cutGroups (s : BitString) {n : Nat} (h : w * n ≤ s.length) :
    joinGroups (cutGroups w s n) = s.take (w * n) := by
  induction n with
  | zero => rfl
  | succ n ih =>
    rw [Nat.mul_succ] at h
    have hlast : (slice s (w * n) (w * n + w)).length = w := by rw [slice_length s h]; omega
    have hcut : cutGroups w s (n + 1) =
        cutGroups w s n ++ [BitVec.ofNat w (num (slice s (w * n) (w * n + w)))] := by
      simp [cutGroups, List.range_succ]
    rw [hcut, joinGroups, List.flatMap_append, ← joinGroups, ih (by omega), List.flatMap_singleton,
      bitsOf_ofNat_num hlast, Nat.mul_succ, List.take_add, slice, Nat.add_sub_cancel_left]

end Sys2Proof.Machine
end

section
/-! PROOFS. The mnemonic encoder and decoder (42_mnemonic.md R115, R117, R118, R119). -/

namespace Sys2Proof.Machine

open Sys2Proof.Claims

/-! ### Command words -/

theorem decode_mnEncode (f1 f2 f3 : Byte) :
    decode (commandWord 0x30 f1 f2 f3) = withUnusedZero 0x30 [f1, f2, f3] .mnEncode := by
  simp [decode]

theorem decode_mnDecode (f1 f2 f3 : Byte) :
    decode (commandWord 0x31 f1 f2 f3) = withUnusedZero 0x31 [f1, f2, f3] .mnDecode := by
  simp [decode]

theorem mnEncode_encodesAs : EncodesAs 0x30 0xFF 0xFF 0xFF (fun _ _ _ => .mnEncode) := by
  intro f1 f2 f3
  simp only [and_fullMask]
  exact (decode_mnEncode f1 f2 f3).trans (withUnusedZero_triple 0x30 f1 f2 f3 .mnEncode)

theorem mnDecode_encodesAs : EncodesAs 0x31 0xFF 0xFF 0xFF (fun _ _ _ => .mnDecode) := by
  intro f1 f2 f3
  simp only [and_fullMask]
  exact (decode_mnDecode f1 f2 f3).trans (withUnusedZero_triple 0x31 f1 f2 f3 .mnDecode)

/-! ### What the commands do -/

theorem mnEncode_refusesLen {s : State} (h : s.byteLen ∉ Config.mnLens) : RefusesParam .mnEncode s 0x10 :=
  congrArg (finish s) (if_pos h)

theorem exec_mnEncode {s : State} (h : s.byteLen ∈ Config.mnLens) :
    exec .mnEncode s =
      .next { s with
        words := overwrite s.words (mnemonicWords s.secretBytes)
        wcount := BitVec.ofNat 6 (3 * s.byteLen / 4)
        done := true
        phase := .idle } :=
  congrArg (finish s) (if_neg (not_not_intro h))

theorem mnDecode_refusesCount {s : State} (h : s.wordCount ∉ Config.mnWords) :
    Reports .mnDecode s 0x02 s.wordCount 0 :=
  congrArg (finish s) (if_pos h)

theorem mnDecode_refusesChecksum {s : State} (h : s.wordCount ∈ Config.mnWords)
    (hck : mnemonicCheck s.activeWords ≠ cs (mnemonicEntropy s.activeWords)) :
    Reports .mnDecode s 0x03 (s.wordCount - 1) 0 :=
  congrArg (finish s) ((if_neg (not_not_intro h)).trans (if_pos hck))

theorem exec_mnDecode {s : State} (h : s.wordCount ∈ Config.mnWords)
    (hck : mnemonicCheck s.activeWords = cs (mnemonicEntropy s.activeWords)) :
    exec .mnDecode s =
      .next { s with
        secret := overwrite s.secret (mnemonicEntropy s.activeWords)
        len := BitVec.ofNat 6 (4 * s.wordCount / 3)
        done := true
        phase := .idle } :=
  congrArg (finish s) ((if_neg (not_not_intro h)).trans (if_neg (not_not_intro hck)))

/-- MN.DECODE leaves ERR clear only where both of its checks pass (R118). -/
theorem mnDecode_checks_of_err_false {s u : State} (h : exec .mnDecode s = .next u) (herr : u.err = false) :
    s.wordCount ∈ Config.mnWords ∧ mnemonicCheck s.activeWords = cs (mnemonicEntropy s.activeWords) := by
  by_contra hno
  have hreport : ∃ code index, Reports .mnDecode s code index 0 := by
    by_cases hcount : s.wordCount ∈ Config.mnWords
    · exact ⟨_, _, mnDecode_refusesChecksum hcount fun hck => hno ⟨hcount, hck⟩⟩
    · exact ⟨_, _, mnDecode_refusesCount hcount⟩
  obtain ⟨code, index, hr⟩ := hreport
  cases hr.symm.trans h
  exact Bool.noConfusion herr

/-! ### Lengths -/

/-- An entropy is a whole number of 4-byte groups that fits SECRET (R12). -/
theorem mnLens_bounds : ∀ l ∈ Config.mnLens, l % 4 = 0 ∧ l ≤ 32 := by decide

/-- A mnemonic is a whole number of 3-word groups that fits WORDS (R12). -/
theorem mnWords_bounds : ∀ n ∈ Config.mnWords, n % 3 = 0 ∧ n ≤ 24 := by decide

theorem wordCount_of_mnLens : ∀ l ∈ Config.mnLens, 3 * l / 4 ∈ Config.mnWords := by decide

theorem byteLen_of_mnWords : ∀ n ∈ Config.mnWords, 4 * n / 3 ∈ Config.mnLens := by decide

theorem mnemonicBits_length (e : List Byte) : (mnemonicBits e).length = 8 * e.length + e.length / 4 := by
  simp [mnemonicBits, cslen]

theorem mnemonicWords_length (e : List Byte) : (mnemonicWords e).length = 3 * e.length / 4 := by
  simp [mnemonicWords]

theorem mnemonicEntropy_length (ws : List WordIndex) : (mnemonicEntropy ws).length = 4 * ws.length / 3 := by
  simp [mnemonicEntropy]

theorem activeWords_length {s : State} (h : s.wordCount ≤ 32) : s.activeWords.length = s.wordCount := by
  rw [State.activeWords, firstOf_length, Nat.min_eq_left h]

/-! ### Bit positions -/

/-- `mnemonicBit` reads the mnemonic's bit string (R115). -/
theorem mnemonicBits_getD (e : List Byte) {p : Nat} (h : p < 8 * e.length + e.length / 4) :
    (mnemonicBits e).getD p false = mnemonicBit e p := by
  unfold mnemonicBit
  split
  · rename_i hp
    rw [mnemonicBits, List.getD_append _ _ _ _ (by rwa [bytesBits_length]), bytesBits_eq_joinGroups,
      joinGroups_getD (by decide)]
  · rename_i hp
    rw [mnemonicBits, List.getD_append_right _ _ _ _ (by rw [bytesBits_length]; omega), bytesBits_length, cslen,
      bitsOf_getD _ _ (by omega)]

/-- Bit `b` of word `i` of a mnemonic (R115, R117). -/
theorem mnemonicWords_getLsbD {e : List Byte} (he : e.length % 4 = 0) {i b : Nat} (hi : i < 3 * e.length / 4)
    (hb : b < 11) : ((mnemonicWords e).getD i 0).getLsbD b = mnemonicBit e (11 * i + (10 - b)) := by
  rw [mnemonicWords, sliceWords_eq_cutGroups,
    cutGroups_getD_getLsbD _ (by rw [mnemonicBits_length]; omega) hi hb, mnemonicBits_getD e (by omega)]

/-- `wordsBit` reads the concatenation of the active words (R118). -/
theorem joinWords_activeWords_getD (s : State) {p : Nat} (h : p < 11 * s.wordCount) :
    (joinWords s.activeWords).getD p false = wordsBit s p := by
  rw [joinWords_eq_joinGroups, joinGroups_getD (by decide), State.activeWords,
    firstOf_getD _ _ _ _ (by omega), wordsBit]

/-- `wordsField` is the number a slice of that concatenation denotes (R118). -/
theorem num_slice_joinWords_activeWords {s : State} (hcount : s.wordCount ≤ 32) (i : Nat) {j : Nat}
    (h : j ≤ 11 * s.wordCount) : num (slice (joinWords s.activeWords) i j) = wordsField s i j := by
  rw [slice_eq_map_range _ (by rwa [joinWords_length, activeWords_length hcount]), wordsField]
  refine congrArg num (List.map_congr_left fun k hk => joinWords_activeWords_getD s ?_)
  have := List.mem_range.mp hk
  omega

/-- The bytes that the words spell are the only ones with the words' bits (R118). -/
theorem eq_mnemonicEntropy_of_bits {s : State} (hcount : s.wordCount ≤ 32) {e : List Byte}
    (hlen : e.length = 4 * s.wordCount / 3)
    (hbits : ∀ j < e.length, ∀ b < 8, (e.getD j 0).getLsbD b = wordsBit s (8 * j + (7 - b))) :
    e = mnemonicEntropy s.activeWords := by
  have hwords := activeWords_length hcount
  refine groups_ext (by rw [mnemonicEntropy_length, hwords, hlen]) fun j hj b hb => ?_
  rw [hbits j hj b hb, mnemonicEntropy, sliceBytes_eq_cutGroups, hwords,
    cutGroups_getD_getLsbD _ (by rw [joinWords_length]; omega) (by omega) hb,
    joinWords_activeWords_getD s (by omega)]

/-! ### The codec is a bijection -/

/-- `3L/4` words hold exactly the `8L + L/4` bits of a mnemonic (R115). -/
theorem joinWords_mnemonicWords {e : List Byte} (he : e.length % 4 = 0) :
    joinWords (mnemonicWords e) = mnemonicBits e := by
  rw [joinWords_eq_joinGroups, mnemonicWords, sliceWords_eq_cutGroups,
    joinGroups_cutGroups _ (by rw [mnemonicBits_length]; omega)]
  exact List.take_of_length_le (by rw [mnemonicBits_length]; omega)

theorem mnemonicEntropy_mnemonicWords {e : List Byte} (he : e.length % 4 = 0) :
    mnemonicEntropy (mnemonicWords e) = e := by
  rw [mnemonicEntropy, joinWords_mnemonicWords he, mnemonicWords_length,
    show 4 * (3 * e.length / 4) / 3 = e.length by omega]
  exact cutGroups_joinGroups_append e _

theorem mnemonicCheck_mnemonicWords {e : List Byte} (he : e.length % 4 = 0) :
    mnemonicCheck (mnemonicWords e) = cs e := by
  have hfield : slice (mnemonicBits e) (8 * e.length) (8 * e.length + e.length / 4) =
      bitsOf (e.length / 4) (cs e) := by
    simp [slice, mnemonicBits, cslen]
  rw [mnemonicCheck, joinWords_mnemonicWords he, mnemonicWords_length,
    show 4 * (3 * e.length / 4) / 3 = e.length by omega,
    show 11 * (3 * e.length / 4) = 8 * e.length + e.length / 4 by omega, hfield, num_bitsOf,
    Nat.mod_eq_of_lt (cs_lt_two_pow e)]

/-- Words whose checksum field is right carry the bit string of their entropy (R115, R118). -/
theorem mnemonicBits_mnemonicEntropy {ws : List WordIndex} (hws : ws.length % 3 = 0)
    (hck : mnemonicCheck ws = cs (mnemonicEntropy ws)) : mnemonicBits (mnemonicEntropy ws) = joinWords ws := by
  have hentropy : bytesBits (mnemonicEntropy ws) = (joinWords ws).take (8 * (4 * ws.length / 3)) := by
    rw [bytesBits_eq_joinGroups, mnemonicEntropy, sliceBytes_eq_cutGroups,
      joinGroups_cutGroups _ (by rw [joinWords_length]; omega)]
  have hrest : slice (joinWords ws) (8 * (4 * ws.length / 3)) (11 * ws.length) =
      (joinWords ws).drop (8 * (4 * ws.length / 3)) :=
    List.take_of_length_le (by rw [List.length_drop, joinWords_length])
  have hfield : bitsOf (cslen (mnemonicEntropy ws).length) (cs (mnemonicEntropy ws)) =
      (joinWords ws).drop (8 * (4 * ws.length / 3)) := by
    have hlen : cslen (mnemonicEntropy ws).length = ((joinWords ws).drop (8 * (4 * ws.length / 3))).length := by
      rw [mnemonicEntropy_length, cslen, List.length_drop, joinWords_length]
      omega
    rw [hlen, ← hck, mnemonicCheck, hrest, bitsOf_num]
  rw [mnemonicBits, hentropy, hfield, List.take_append_drop]

theorem mnemonicWords_mnemonicEntropy {ws : List WordIndex} (hws : ws.length % 3 = 0)
    (hck : mnemonicCheck ws = cs (mnemonicEntropy ws)) : mnemonicWords (mnemonicEntropy ws) = ws := by
  rw [mnemonicWords, mnemonicBits_mnemonicEntropy hws hck, mnemonicEntropy_length,
    show 3 * (4 * ws.length / 3) / 4 = ws.length by omega]
  exact cutGroups_joinGroups ws

/-! ### MN.ENCODE -/

/-- Settles O43: the LEN check decides between the report and the write, and the words written are read bit by bit
as R115's string. -/
theorem mnEncodeWritesTheMnemonic : Obligations.MnEncodeWritesTheMnemonic := by
  refine ⟨mnEncode_encodesAs, fun s => ⟨mnEncode_refusesLen, fun hlen =>
    ⟨_, exec_mnEncode hlen, ?_, ?_, ?_, rfl⟩⟩⟩
  all_goals
    obtain ⟨hfour, hle⟩ := mnLens_bounds _ hlen
    have hbytes := secretBytes_length hlen
  · rw [BitVec.toNat_ofNat]
    omega
  · intro i hi b hb
    rw [← State.secretBytes_eq_map hle, ← mnemonicWords_getLsbD (by omega) (by omega) hb]
    simp only [wordAt]
    rw [overwrite_getD _ _ _ _ (by omega), if_pos (by rw [mnemonicWords_length]; omega)]
  · intro i hi hi'
    simp only [wordAt]
    rw [overwrite_getD _ _ _ _ hi, if_neg (by rw [mnemonicWords_length]; omega)]

/-! ### MN.DECODE -/

/-- Settles O44: the given bytes are the model's entropy and the given field its checksum, so the two checks and the
write are MN.DECODE's own. -/
theorem mnDecodeChecksAndWritesTheEntropy : Obligations.MnDecodeChecksAndWritesTheEntropy := by
  refine ⟨mnDecode_encodesAs, fun s => ⟨mnDecode_refusesCount, fun hcount e hlen hbits => ?_⟩⟩
  obtain ⟨hthree, hle⟩ := mnWords_bounds _ hcount
  have hwords : s.activeWords.length = s.wordCount := activeWords_length (by omega)
  obtain rfl : e = mnemonicEntropy s.activeWords := eq_mnemonicEntropy_of_bits (by omega) hlen hbits
  have hfield : wordsField s (8 * (mnemonicEntropy s.activeWords).length) (11 * s.wordCount) =
      mnemonicCheck s.activeWords := by
    rw [mnemonicCheck, ← mnemonicEntropy_length, hwords, num_slice_joinWords_activeWords (by omega) _ le_rfl]
  rw [hfield]
  refine ⟨mnDecode_refusesChecksum hcount, fun hck => ⟨_, exec_mnDecode hcount hck, ?_, ?_, rfl⟩⟩
  · rw [BitVec.toNat_ofNat, hlen]
    omega
  · exact fun j hj => overwrite_getD _ _ _ _ hj

/-! ### Round trip -/

/-- What was written over the head of a buffer is what its head holds. -/
theorem firstOf_overwrite {α : Type} {n : Nat} (buf : Vector α n) {xs : List α} (h : xs.length ≤ n) :
    firstOf (overwrite buf xs) xs.length = xs := by
  apply List.ext_getElem
  · rw [firstOf_length, Nat.min_eq_left h]
  · intro j _ hj
    simp [firstOf, overwrite, hj]

/-- MN.ENCODE leaves the mnemonic of the entropy in the active words (R117). -/
theorem activeWords_after_mnEncode {s u : State} (hlen : s.byteLen ∈ Config.mnLens)
    (h : exec .mnEncode s = .next u) :
    u.wordCount = 3 * s.byteLen / 4 ∧ u.activeWords = mnemonicWords s.secretBytes := by
  obtain ⟨hfour, hle⟩ := mnLens_bounds _ hlen
  have hwords : (mnemonicWords s.secretBytes).length = 3 * s.byteLen / 4 := by
    rw [mnemonicWords_length, secretBytes_length hlen]
  cases (exec_mnEncode hlen).symm.trans h
  have hcount : (BitVec.ofNat 6 (3 * s.byteLen / 4)).toNat = 3 * s.byteLen / 4 := by
    rw [BitVec.toNat_ofNat]
    omega
  refine ⟨hcount, ?_⟩
  simp only [State.activeWords, State.wordCount, hcount]
  rw [← hwords, firstOf_overwrite _ (by omega)]

/-- MN.DECODE leaves the words' entropy in the active bytes of SECRET, and the words as they were (R118). -/
theorem secretBytes_after_mnDecode {s u : State} (hcount : s.wordCount ∈ Config.mnWords)
    (hck : mnemonicCheck s.activeWords = cs (mnemonicEntropy s.activeWords)) (h : exec .mnDecode s = .next u) :
    u.byteLen = 4 * s.wordCount / 3 ∧ u.secretBytes = mnemonicEntropy s.activeWords ∧ u.words = s.words := by
  obtain ⟨hthree, hle⟩ := mnWords_bounds _ hcount
  have hbytes : (mnemonicEntropy s.activeWords).length = 4 * s.wordCount / 3 := by
    rw [mnemonicEntropy_length, activeWords_length (by omega)]
  cases (exec_mnDecode hcount hck).symm.trans h
  have hlen : (BitVec.ofNat 6 (4 * s.wordCount / 3)).toNat = 4 * s.wordCount / 3 := by
    rw [BitVec.toNat_ofNat]
    omega
  refine ⟨hlen, ?_, rfl⟩
  simp only [State.secretBytes, State.byteLen, hlen]
  rw [← hbytes, firstOf_overwrite _ (by omega)]

/-- R119's first sentence: the words and WCOUNT that MN.ENCODE left determine what MN.DECODE writes. -/
theorem mnDecode_after_mnEncode {s u v : State} (hlen : s.byteLen ∈ Config.mnLens)
    (h : exec .mnEncode s = .next u) (hwords : v.words = u.words) (hcount : v.wcount = u.wcount) :
    exec .mnDecode v =
      .next { v with secret := overwrite v.secret s.secretBytes, len := s.len, done := true, phase := .idle } := by
  obtain ⟨hfour, hle⟩ := mnLens_bounds _ hlen
  have hbytes := secretBytes_length hlen
  obtain ⟨hcountU, hactiveU⟩ := activeWords_after_mnEncode hlen h
  have hcountV : v.wordCount = 3 * s.byteLen / 4 := by rw [State.wordCount, hcount, ← hcountU, State.wordCount]
  have hactiveV : v.activeWords = mnemonicWords s.secretBytes := by
    rw [State.activeWords, hcountV, hwords, ← hactiveU, State.activeWords, hcountU]
  have hentropy : mnemonicEntropy v.activeWords = s.secretBytes := by
    rw [hactiveV, mnemonicEntropy_mnemonicWords (by omega)]
  have hck : mnemonicCheck v.activeWords = cs (mnemonicEntropy v.activeWords) := by
    rw [hentropy, hactiveV, mnemonicCheck_mnemonicWords (by omega)]
  have hlenV : BitVec.ofNat 6 (4 * v.wordCount / 3) = s.len := by
    rw [hcountV, show 4 * (3 * s.byteLen / 4) / 3 = s.byteLen by omega, State.byteLen, BitVec.ofNat_toNat,
      BitVec.setWidth_eq]
  rw [exec_mnDecode (hcountV ▸ wordCount_of_mnLens _ hlen) hck, hentropy, hlenV]

/-- R119's converse: what MN.DECODE accepts is the mnemonic of the entropy it writes. -/
theorem mnEncode_after_mnDecode {s u : State} (h : exec .mnDecode s = .next u) (herr : u.err = false) :
    ∃ w, exec .mnEncode u = .next w ∧ w.words = s.words ∧ w.wcount = s.wcount := by
  obtain ⟨hcount, hck⟩ := mnDecode_checks_of_err_false h herr
  obtain ⟨hthree, hle⟩ := mnWords_bounds _ hcount
  obtain ⟨hlen, hsecret, hwords⟩ := secretBytes_after_mnDecode hcount hck h
  have hactive := activeWords_length (s := s) (by omega)
  refine ⟨_, exec_mnEncode (hlen ▸ byteLen_of_mnWords _ hcount), ?_, ?_⟩
  · simp only
    rw [hsecret, hwords, mnemonicWords_mnemonicEntropy (by omega) hck, State.activeWords, overwrite_firstOf]
  · simp only
    rw [hlen, show 3 * (4 * s.wordCount / 3) / 4 = s.wordCount by omega, State.wordCount, BitVec.ofNat_toNat,
      BitVec.setWidth_eq]

/-- Settles O45: encoding and decoding invert each other on the words and on the entropy, and MN.DECODE reads
nothing else. -/
theorem mnemonicRoundTrip : Obligations.MnemonicRoundTrip := by
  refine ⟨fun s u v hlen hu hwords hcount =>
    ⟨_, mnDecode_after_mnEncode hlen hu hwords hcount, rfl, fun j hj => ?_, rfl⟩,
    fun s u _ hu herr => mnEncode_after_mnDecode hu herr⟩
  simp only [secretAt]
  rw [overwrite_getD _ _ _ _ hj, secretBytes_length hlen]
  exact ite_congr rfl (fun hj' => firstOf_getD _ _ _ _ hj') fun _ => rfl

end Sys2Proof.Machine
end

section
/-! PROOFS. The bytes as the residues of GF(2)[x] modulo POLY (43_gf256.md R122 to R125). -/

namespace Sys2Proof.Machine

open Sys2Proof.Claims Polynomial

/-! ### The polynomial of a byte -/

@[simp] theorem bytePoly_zero : bytePoly 0#8 = 0 := by simp [bytePoly]

@[simp] theorem bytePoly_one : bytePoly 1#8 = 1 := by simp [bytePoly]

theorem coeff_bytePoly (a : Byte) {i : Nat} (h : i < 8) :
    (bytePoly a).coeff i = if a.getLsbD i then 1 else 0 := by
  simp only [bytePoly, finsetSum_coeff, apply_ite (coeff · i), coeff_X_pow, coeff_zero]
  rw [Finset.sum_eq_single_of_mem i (Finset.mem_range.2 h)]
  · simp
  · intro j _ hji
    simp [hji.symm]

theorem bytePoly_injective : Function.Injective bytePoly := by
  intro a b hab
  refine BitVec.eq_of_getLsbD_eq fun i hi => ?_
  have hcoeff := congrArg (coeff · i) hab
  simp only [coeff_bytePoly _ hi] at hcoeff
  revert hcoeff
  cases a.getLsbD i <;> cases b.getLsbD i <;> simp

theorem degree_bytePoly_lt (a : Byte) : (bytePoly a).degree < 8 := by
  refine (degree_sum_le _ _).trans_lt ((Finset.sup_lt_iff (by decide)).2 fun i hi => ?_)
  split
  · rw [degree_X_pow]
    exact_mod_cast Finset.mem_range.1 hi
  · decide

theorem bytePoly_xor (a b : Byte) : bytePoly (a ^^^ b) = bytePoly a + bytePoly b := by
  rw [bytePoly, bytePoly, bytePoly, ← Finset.sum_add_distrib]
  refine Finset.sum_congr rfl fun i _ => ?_
  rw [BitVec.getLsbD_xor]
  cases a.getLsbD i <;> cases b.getLsbD i <;> simp [CharTwo.add_self_eq_zero]

/-- A shift multiplies by `x`, but for the bit it loses. -/
theorem X_mul_bytePoly_eq_shiftLeft (a : Byte) :
    X * bytePoly a = bytePoly (a <<< 1) + if a.getLsbD 7 then X ^ 8 else 0 := by
  rw [bytePoly, bytePoly, Finset.sum_range_succ, Finset.sum_range_succ' _ 7, mul_add, Finset.mul_sum]
  have hlow : ∀ i ∈ Finset.range 7, X * (if a.getLsbD i then (X : (ZMod 2)[X]) ^ i else 0) =
      if (a <<< 1).getLsbD (i + 1) then X ^ (i + 1) else 0 := by
    intro i hi
    have hi8 : i + 1 < 8 := Nat.succ_lt_succ (Finset.mem_range.1 hi)
    rw [BitVec.getLsbD_shiftLeft]
    simp [pow_succ', hi8, -BitVec.getLsbD_eq_getElem]
  rw [Finset.sum_congr rfl hlow]
  simp [← pow_succ']

/-! ### POLY -/

theorem polyModulus_eq : polyModulus = X ^ 8 + bytePoly 0x1B := by
  simp [polyModulus, bytePoly, Finset.sum_range_succ]
  ring

theorem polyModulus_monic : polyModulus.Monic := by
  unfold polyModulus
  monicity!

theorem degree_polyModulus : polyModulus.degree = 8 := by
  unfold polyModulus
  compute_degree!

theorem bytePoly_modByMonic (a : Byte) : bytePoly a %ₘ polyModulus = bytePoly a :=
  (modByMonic_eq_self_iff polyModulus_monic).2 (degree_polyModulus ▸ degree_bytePoly_lt a)

/-! ### One pass of the loop of R125 -/

theorem gdouble_eq (a : Byte) : gdouble a = a <<< 1 ^^^ if a.getLsbD 7 then 0x1B else 0 := by
  have htop : (a.setWidth 9 <<< 1).getLsbD 8 = a.getLsbD 7 := by simp
  have hlow : (a.setWidth 9 <<< 1).setWidth 8 = a <<< 1 := by
    ext i hi
    simp
  simp only [gdouble, htop]
  split
  · rw [BitVec.setWidth_xor, hlow]
    rfl
  · simp [hlow]

/-- Doubling multiplies by `x` modulo POLY. -/
theorem X_mul_bytePoly (a : Byte) :
    X * bytePoly a = bytePoly (gdouble a) + if a.getLsbD 7 then polyModulus else 0 := by
  rw [X_mul_bytePoly_eq_shiftLeft, gdouble_eq, bytePoly_xor, polyModulus_eq]
  split
  · linear_combination - CharTwo.add_self_eq_zero (bytePoly 0x1B)
  · simp

/-! ### The residue of a byte -/

/-- The class of a byte's polynomial modulo POLY. -/
noncomputable def byteClass (a : Byte) : AdjoinRoot polyModulus := AdjoinRoot.mk polyModulus (bytePoly a)

theorem byteClass_injective : Function.Injective byteClass := by
  intro a b hab
  have hmod := modByMonic_eq_of_dvd_sub polyModulus_monic (AdjoinRoot.mk_eq_mk.1 hab)
  rw [bytePoly_modByMonic, bytePoly_modByMonic] at hmod
  exact bytePoly_injective hmod

@[simp] theorem byteClass_zero : byteClass 0#8 = 0 := by simp [byteClass]

@[simp] theorem byteClass_one : byteClass 1#8 = 1 := by simp [byteClass]

theorem byteClass_eq_sum (a : Byte) :
    byteClass a = ∑ i ∈ Finset.range 8, if a.getLsbD i then AdjoinRoot.root polyModulus ^ i else 0 := by
  simp [byteClass, bytePoly, apply_ite]

@[simp] theorem byteClass_xor (a b : Byte) : byteClass (a ^^^ b) = byteClass a + byteClass b := by
  simp [byteClass, bytePoly_xor]

theorem byteClass_gdouble (a : Byte) :
    byteClass (gdouble a) = byteClass a * AdjoinRoot.root polyModulus := by
  have h := congrArg (AdjoinRoot.mk polyModulus) (X_mul_bytePoly a)
  simp only [map_mul, map_add, AdjoinRoot.mk_X, apply_ite, AdjoinRoot.mk_self, ite_self, add_zero] at h
  rw [byteClass, ← h, byteClass, mul_comm]

/-- The loop over the `n` bits of `b` from bit `i` on adds to `r` the product of `a` by these bits. -/
theorem byteClass_gmulLoop (b : Byte) (n i : Nat) (a r : Byte) :
    byteClass (gmulLoop b (List.range' i n) a r) = byteClass r + byteClass a *
      ∑ j ∈ Finset.range n, if b.getLsbD (i + j) then AdjoinRoot.root polyModulus ^ j else 0 := by
  induction n generalizing i a r with
  | zero => simp [gmulLoop]
  | succ n ih =>
    have hshift : (∑ j ∈ Finset.range n,
          if b.getLsbD (i + (j + 1)) then AdjoinRoot.root polyModulus ^ (j + 1) else 0) =
        AdjoinRoot.root polyModulus *
          ∑ j ∈ Finset.range n, if b.getLsbD (i + 1 + j) then AdjoinRoot.root polyModulus ^ j else 0 := by
      simp only [Finset.mul_sum, mul_ite, mul_zero, ← pow_succ', Nat.add_right_comm i, Nat.add_assoc]
    have hbit : byteClass (if b.getLsbD i then r ^^^ a else r) =
        byteClass r + byteClass a * if b.getLsbD i then 1 else 0 := by
      split <;> simp
    rw [List.range'_succ, gmulLoop, ih, byteClass_gdouble, Finset.sum_range_succ', hshift, hbit]
    simp only [Nat.add_zero, pow_zero]
    ring

@[simp] theorem byteClass_gmul (a b : Byte) : byteClass (gmul a b) = byteClass a * byteClass b := by
  rw [gmul, List.range_eq_range', byteClass_gmulLoop, byteClass_eq_sum b]
  simp

/-- Settles O29: the loop of R125 computes the product of the residues, and a byte's polynomial is its own
remainder modulo POLY. -/
theorem gmulIsTheProductModuloPoly : Obligations.GmulIsTheProductModuloPoly := by
  intro a b
  have hmk : AdjoinRoot.mk polyModulus (bytePoly (gmul a b)) =
      AdjoinRoot.mk polyModulus (bytePoly a * bytePoly b) := by
    rw [map_mul]
    exact byteClass_gmul a b
  calc bytePoly (gmul a b) = bytePoly (gmul a b) %ₘ polyModulus := (bytePoly_modByMonic _).symm
    _ = (bytePoly a * bytePoly b) %ₘ polyModulus :=
      modByMonic_eq_of_dvd_sub polyModulus_monic (AdjoinRoot.mk_eq_mk.1 hmk)

end Sys2Proof.Machine
end

section
/-! PROOFS. The laws of the field (43_gf256.md R126, R127, R132 to R136), from the ring of residues modulo POLY and
the order of 0x03 in it. -/

namespace Sys2Proof.Machine

open Sys2Proof.Claims

/-! ### The operations as operations on residues -/

@[simp] theorem byteClass_gadd (a b : Byte) : byteClass (gadd a b) = byteClass a + byteClass b :=
  byteClass_xor a b

@[simp] theorem byteClass_gpow (a : Byte) (n : Nat) : byteClass (gpow a n) = byteClass a ^ n := by
  induction n with
  | zero => simp [gpow]
  | succ n ih => rw [gpow, byteClass_gmul, ih, pow_succ]

theorem byteClass_gsquares (n : Nat) (a r : Byte) :
    byteClass (gsquares n a r) = byteClass r * byteClass a ^ (2 ^ (n + 1) - 2) := by
  induction n generalizing a r with
  | zero => simp [gsquares]
  | succ n ih =>
    have hpos : 0 < 2 ^ n := Nat.two_pow_pos n
    have hexp : 2 + 2 * (2 ^ (n + 1) - 2) = 2 ^ (n + 1 + 1) - 2 := by omega
    rw [gsquares, ih, byteClass_gmul, byteClass_gmul, ← sq, ← pow_mul, mul_assoc, ← pow_add, hexp]

@[simp] theorem byteClass_ginv (a : Byte) : byteClass (ginv a) = byteClass a ^ 254 := by
  simp [ginv, byteClass_gsquares]

theorem ginv_eq_gpow (a : Byte) : ginv a = gpow a 254 := byteClass_injective (by simp)

theorem byteClass_eq_zero_iff {a : Byte} : byteClass a = 0 ↔ a = 0 := by
  rw [← byteClass_zero]
  exact byteClass_injective.eq_iff

theorem byteClass_eq_one_iff {a : Byte} : byteClass a = 1 ↔ a = 1 := by
  rw [← byteClass_one]
  exact byteClass_injective.eq_iff

theorem gpow_eq_one_iff {a : Byte} {n : Nat} : gpow a n = 1 ↔ byteClass a ^ n = 1 := by
  rw [← byteClass_gpow, byteClass_eq_one_iff]

/-! ### Ring laws -/

theorem gadd_comm (a b : Byte) : gadd a b = gadd b a := BitVec.xor_comm a b

theorem gadd_assoc (a b c : Byte) : gadd (gadd a b) c = gadd a (gadd b c) := BitVec.xor_assoc a b c

theorem gadd_zero (a : Byte) : gadd a 0 = a := BitVec.xor_zero

theorem gadd_self (a : Byte) : gadd a a = 0 := BitVec.xor_self

theorem gmul_comm (a b : Byte) : gmul a b = gmul b a := byteClass_injective (by simp [mul_comm])

theorem gmul_assoc (a b c : Byte) : gmul (gmul a b) c = gmul a (gmul b c) :=
  byteClass_injective (by simp [mul_assoc])

theorem gmul_gadd (a b c : Byte) : gmul a (gadd b c) = gadd (gmul a b) (gmul a c) :=
  byteClass_injective (by simp [mul_add])

theorem gmul_one (a : Byte) : gmul a 1 = a := byteClass_injective (by simp)

theorem one_gmul (a : Byte) : gmul 1 a = a := (gmul_comm 1 a).trans (gmul_one a)

theorem gmul_zero (a : Byte) : gmul a 0 = 0 := byteClass_injective (by simp)

theorem zero_gmul (a : Byte) : gmul 0 a = 0 := (gmul_comm 0 a).trans (gmul_zero a)

/-! ### The order of 0x03 and of 0x02 -/

theorem byteClass_nontrivial : Nontrivial (AdjoinRoot polyModulus) :=
  nontrivial_of_ne (byteClass 0) (byteClass 1) (byteClass_injective.ne (by decide))

/-- An element with `a^n = 1` has order `n` when no `a^(n/p)` with a prime `p` of `n` is 1. -/
theorem orderOf_byteClass_eq {a : Byte} {n : Nat} (hn : 0 < n) (hone : gpow a n = 1)
    (hne : ∀ p ∈ n.primeFactorsList, gpow a (n / p) ≠ 1) : orderOf (byteClass a) = n := by
  refine orderOf_eq_of_pow_and_pow_div_prime hn (gpow_eq_one_iff.1 hone) fun p hp hdvd => ?_
  rw [Ne, ← gpow_eq_one_iff]
  exact hne p ((Nat.mem_primeFactorsList hn.ne').2 ⟨hp, hdvd⟩)

theorem orderOf_byteClass_three : orderOf (byteClass 3) = 255 := by
  have hprimes : Nat.primeFactorsList 255 = [3, 5, 17] := by simp
  exact orderOf_byteClass_eq (by decide) (by decide +kernel) (hprimes ▸ by decide +kernel)

theorem orderOf_byteClass_two : orderOf (byteClass 2) = 51 := by
  have hprimes : Nat.primeFactorsList 51 = [3, 17] := by simp
  exact orderOf_byteClass_eq (by decide) (by decide +kernel) (hprimes ▸ by decide +kernel)

theorem gpow_three_injOn : Set.InjOn (gpow 3) (Set.Iio 255) := by
  intro i hi j hj hij
  refine pow_injOn_Iio_orderOf (x := byteClass 3) ?_ ?_ ?_
  · rwa [orderOf_byteClass_three]
  · rwa [orderOf_byteClass_three]
  · simpa using congrArg byteClass hij

theorem gpow_three_ne_zero (k : Nat) : gpow 3 k ≠ 0 := by
  have := byteClass_nontrivial
  have hunit : IsUnit (byteClass 3) :=
    IsUnit.of_pow_eq_one (orderOf_byteClass_three ▸ pow_orderOf_eq_one _) (by decide)
  rw [Ne, ← byteClass_eq_zero_iff, byteClass_gpow]
  exact (hunit.pow k).ne_zero

/-- The 255 powers of 0x03 are distinct and nonzero, so they are all 255 nonzero bytes. -/
theorem image_gpow_three : (Finset.range 255).image (gpow 3) = Finset.univ.erase 0 := by
  refine Finset.eq_of_subset_of_card_le ?_ ?_
  · intro a ha
    obtain ⟨k, -, rfl⟩ := Finset.mem_image.1 ha
    exact Finset.mem_erase.2 ⟨gpow_three_ne_zero k, Finset.mem_univ _⟩
  · rw [Finset.card_image_of_injOn (by simpa using gpow_three_injOn), Finset.card_erase_of_mem (Finset.mem_univ _),
      Finset.card_univ, ← FinEnum.card_eq_fintypeCard, FinEnum.card_bitVec, Finset.card_range]
    decide

theorem exists_gpow_three {a : Byte} (ha : a ≠ 0) : ∃ k < 255, gpow 3 k = a := by
  have hmem : a ∈ (Finset.range 255).image (gpow 3) :=
    image_gpow_three ▸ Finset.mem_erase.2 ⟨ha, Finset.mem_univ a⟩
  simpa using hmem

/-! ### Inverses -/

theorem byteClass_pow_255 {a : Byte} (ha : a ≠ 0) : byteClass a ^ 255 = 1 := by
  obtain ⟨k, -, rfl⟩ := exists_gpow_three ha
  rw [byteClass_gpow, ← pow_mul, mul_comm, pow_mul, ← orderOf_byteClass_three, pow_orderOf_eq_one, one_pow]

theorem isUnit_byteClass {a : Byte} (ha : a ≠ 0) : IsUnit (byteClass a) :=
  IsUnit.of_pow_eq_one (byteClass_pow_255 ha) (by decide)

theorem gmul_ginv {a : Byte} (ha : a ≠ 0) : gmul a (ginv a) = 1 := by
  rw [← byteClass_eq_one_iff, byteClass_gmul, byteClass_ginv, ← pow_succ', byteClass_pow_255 ha]

theorem eq_ginv_of_gmul_eq_one {a b : Byte} (ha : a ≠ 0) (h : gmul a b = 1) : b = ginv a :=
  calc b = gmul b (gmul a (ginv a)) := by rw [gmul_ginv ha, gmul_one]
    _ = gmul (gmul a b) (ginv a) := by rw [← gmul_assoc, gmul_comm b]
    _ = ginv a := by rw [h, one_gmul]

theorem ginv_ne_zero {a : Byte} (ha : a ≠ 0) : ginv a ≠ 0 := by
  intro hzero
  have hone := gmul_ginv ha
  rw [hzero, gmul_zero] at hone
  exact absurd hone (by decide)

theorem ginv_ginv {a : Byte} (ha : a ≠ 0) : ginv (ginv a) = a :=
  (eq_ginv_of_gmul_eq_one (ginv_ne_zero ha) ((gmul_comm _ _).trans (gmul_ginv ha))).symm

theorem gmul_eq_zero_iff (a b : Byte) : gmul a b = 0 ↔ a = 0 ∨ b = 0 := by
  by_cases ha : a = 0
  · rw [ha, zero_gmul]
    exact iff_of_true rfl (.inl rfl)
  · rw [← byteClass_eq_zero_iff, byteClass_gmul, (isUnit_byteClass ha).mul_right_eq_zero, byteClass_eq_zero_iff,
      or_iff_right ha]

/-- Settles O30: the ring laws are those of the residues modulo POLY, and inverses, the cyclic group and the absence
of zero divisors follow from every nonzero byte being a power of 0x03. -/
theorem fieldLawsHold : Obligations.FieldLawsHold := by
  refine ⟨fun a b => ⟨gadd_comm a b, gmul_comm a b⟩, fun a b c => ⟨gadd_assoc a b c, gmul_assoc a b c⟩,
    fun a => ⟨gadd_zero a, gmul_one a, gmul_zero a, gadd_self a⟩, gmul_gadd, fun a ha => ?_,
    ⟨3, fun a ha => exists_gpow_three ha⟩, gmul_eq_zero_iff⟩
  exact ⟨gmul_ginv ha, ginv_eq_gpow a, gpow_eq_one_iff.2 (byteClass_pow_255 ha),
    fun b => eq_ginv_of_gmul_eq_one ha⟩

/-! ### Generators -/

/-- A byte is a generator exactly when its residue has order 255. -/
theorem orderOf_byteClass_eq_255_iff (a : Byte) :
    orderOf (byteClass a) = 255 ↔
      a ≠ 0 ∧ gpow a 255 = 1 ∧ ∀ k ∈ List.range 255, k ≠ 0 → gpow a k ≠ 1 := by
  have hne : gpow a 255 = 1 → a ≠ 0 := by
    rintro hone rfl
    exact absurd hone (by decide +kernel)
  rw [orderOf_eq_iff (by decide), ← gpow_eq_one_iff]
  simp only [Ne, ← gpow_eq_one_iff, List.mem_range, Nat.pos_iff_ne_zero]
  exact ⟨fun ⟨hone, hlt⟩ => ⟨hne hone, hone, hlt⟩, fun ⟨_, hone, hlt⟩ => ⟨hone, hlt⟩⟩

theorem orderOf_gpow_three_eq_255_iff (k : Nat) : orderOf (byteClass (gpow 3 k)) = 255 ↔ Nat.Coprime 255 k := by
  have hfin : IsOfFinOrder (byteClass 3) := orderOf_pos_iff.1 (orderOf_byteClass_three ▸ by decide)
  rw [byteClass_gpow, hfin.orderOf_pow, orderOf_byteClass_three, Nat.div_eq_self]
  simp [Nat.Coprime]

theorem image_gpow_three_coprime :
    ((Finset.range 255).filter (Nat.Coprime 255)).image (gpow 3) =
      Finset.univ.filter fun a : Byte =>
        a ≠ 0 ∧ gpow a 255 = 1 ∧ ∀ k ∈ List.range 255, k ≠ 0 → gpow a k ≠ 1 := by
  ext a
  rw [Finset.mem_filter_univ, ← orderOf_byteClass_eq_255_iff, Finset.mem_image]
  constructor
  · rintro ⟨k, hk, rfl⟩
    exact (orderOf_gpow_three_eq_255_iff k).2 (Finset.mem_filter.1 hk).2
  · intro hord
    obtain ⟨k, hk, rfl⟩ := exists_gpow_three ((orderOf_byteClass_eq_255_iff a).1 hord).1
    exact ⟨k, Finset.mem_filter.2 ⟨Finset.mem_range.2 hk, (orderOf_gpow_three_eq_255_iff k).1 hord⟩, rfl⟩

theorem card_orderOf_eq_255 :
    ((Finset.univ : Finset Byte).filter fun a =>
      a ≠ 0 ∧ gpow a 255 = 1 ∧ ∀ k ∈ List.range 255, k ≠ 0 → gpow a k ≠ 1).card = 128 := by
  have hinj : Set.InjOn (gpow 3) ((Finset.range 255).filter (Nat.Coprime 255)) :=
    gpow_three_injOn.mono fun k hk => Finset.mem_range.1 (Finset.mem_filter.1 hk).1
  rw [← image_gpow_three_coprime, Finset.card_image_of_injOn hinj]
  decide +kernel

theorem gmul_gpow_three (i j : Nat) : gmul (gpow 3 i) (gpow 3 j) = gpow 3 ((i + j) % 255) := by
  refine byteClass_injective ?_
  rw [byteClass_gmul, byteClass_gpow, byteClass_gpow, byteClass_gpow, ← pow_add, ← orderOf_byteClass_three,
    pow_mod_orderOf]

theorem gpow_two_51 : gpow 2 51 = 1 :=
  gpow_eq_one_iff.2 (orderOf_byteClass_two ▸ pow_orderOf_eq_one _)

/-- Settles O31: the first two clauses and the count are facts about the cyclic group that 0x03 generates; 0x01 and
0x02 have the orders 1 and 51. -/
theorem generatorTablesGiveTheProduct : Obligations.GeneratorTablesGiveTheProduct := by
  refine ⟨fun a ha => ?_, fun i _ j _ => gmul_gpow_three i j, ⟨gpow_two_51, fun k hpos hlt => ?_⟩,
    fun a hlt ha => ?_, card_orderOf_eq_255⟩
  · obtain ⟨i, hi, rfl⟩ := exists_gpow_three ha
    exact ⟨i, hi, rfl, fun k hk heq => gpow_three_injOn hk hi heq⟩
  · rw [Ne, gpow_eq_one_iff]
    exact pow_ne_one_of_lt_orderOf hpos.ne' (orderOf_byteClass_two ▸ hlt)
  · obtain rfl | rfl : a = 1 ∨ a = 2 := by bv_omega
    · exact ⟨1, by decide, by decide, gmul_one 1⟩
    · exact ⟨51, by decide, by decide, gpow_two_51⟩

end Sys2Proof.Machine
end

section
/-! PROOFS. The commands GF.ADD, GF.MUL and GF.INV (43_gf256.md R128 to R130). -/

namespace Sys2Proof.Machine

open Sys2Proof.Claims

/-! ### Command words -/

/-- A decoded command with the one unused field `f`: legal exactly when it is 0 (R91). -/
theorem withUnusedZero_single (op f : Byte) (i : Instr) :
    withUnusedZero op [f] i = if f = 0 then .ok i else .error (.reservedField op) := by
  simp [withUnusedZero]

theorem decode_gfAdd (a b f3 : Byte) :
    decode (commandWord 0x01 a b f3) = withUnusedZero 0x01 [f3] (.gfAdd a b) := by
  simp [decode]

theorem decode_gfMul (a b f3 : Byte) :
    decode (commandWord 0x02 a b f3) = withUnusedZero 0x02 [f3] (.gfMul a b) := by
  simp [decode]

theorem decode_gfInv (a f2 f3 : Byte) :
    decode (commandWord 0x03 a f2 f3) = withUnusedZero 0x03 [f2, f3] (.gfInv a) := by
  simp [decode]

theorem gfAdd_encodesAs : EncodesAs 0x01 0x00 0x00 0xFF (fun a b _ => .gfAdd a b) := by
  intro f1 f2 f3
  simp only [and_fullMask, and_emptyMask, true_and]
  exact (decode_gfAdd f1 f2 f3).trans (withUnusedZero_single 0x01 f3 (.gfAdd f1 f2))

theorem gfMul_encodesAs : EncodesAs 0x02 0x00 0x00 0xFF (fun a b _ => .gfMul a b) := by
  intro f1 f2 f3
  simp only [and_fullMask, and_emptyMask, true_and]
  exact (decode_gfMul f1 f2 f3).trans (withUnusedZero_single 0x02 f3 (.gfMul f1 f2))

theorem gfInv_encodesAs : EncodesAs 0x03 0x00 0xFF 0xFF (fun a _ _ => .gfInv a) := by
  intro f1 f2 f3
  simp only [and_fullMask, and_emptyMask, true_and]
  exact (decode_gfInv f1 f2 f3).trans (withUnusedZero_pair 0x03 f2 f3 (.gfInv f1))

/-! ### What the commands do -/

theorem exec_gfAdd (a b : Byte) (s : State) :
    exec (.gfAdd a b) s = .next { s with result := (a ^^^ b).setWidth 32, done := true, phase := .idle } := rfl

theorem exec_gfMul (a b : Byte) (s : State) :
    exec (.gfMul a b) s = .next { s with result := (gmul a b).setWidth 32, done := true, phase := .idle } := rfl

theorem gfInv_refusesZero (s : State) : Reports (.gfInv 0) s 0x04 0 0 :=
  congrArg (finish s) (if_pos rfl)

theorem exec_gfInv {a : Byte} (ha : a ≠ 0) (s : State) :
    exec (.gfInv a) s = .next { s with result := (ginv a).setWidth 32, done := true, phase := .idle } :=
  congrArg (finish s) (if_neg ha)

/-- Settles O26: RESULT is the zero-extended `gadd`, and R133 gives the corner cases. -/
theorem gfAddWritesTheXor : Obligations.GfAddWritesTheXor := by
  refine ⟨gfAdd_encodesAs, exec_gfAdd, fun a s t h => ?_, fun a s t h => ?_⟩
  · cases (exec_gfAdd a a s).symm.trans h
    exact congrArg (BitVec.setWidth 32) (gadd_self a)
  · cases (exec_gfAdd a 0 s).symm.trans h
    exact congrArg (BitVec.setWidth 32) (gadd_zero a)

/-- Settles O27: RESULT is the zero-extended `gmul`, and the ring laws give the corner cases. -/
theorem gfMulWritesTheProduct : Obligations.GfMulWritesTheProduct :=
  ⟨gfMul_encodesAs, exec_gfMul, fun a => ⟨gmul_zero a, zero_gmul a, gmul_one a, one_gmul a⟩, by decide,
    by decide⟩

/-- Settles O28: the test for 0 decides between the report and the write, and uniqueness of the inverse makes `ginv`
an involution. -/
theorem gfInvWritesTheInverse : Obligations.GfInvWritesTheInverse :=
  ⟨gfInv_encodesAs, fun a s ha => ⟨gmul_ginv ha, exec_gfInv ha s⟩, gfInv_refusesZero, by decide, by decide,
    fun a ha => ginv_ginv ha⟩

end Sys2Proof.Machine
end

section
/-! PROOFS. Sums under `gadd`, and Horner's rule (44_shamir.md R138, R139). -/

namespace Sys2Proof.Machine

open Sys2Proof.Claims

/-- A sum under `gadd` is a sum of residues. -/
theorem byteClass_gsum (xs : List Byte) : byteClass (gsum xs) = (xs.map byteClass).sum := by
  rw [List.sum_eq_foldl, List.foldl_map, gsum, ← byteClass_zero]
  exact (List.foldl_hom byteClass fun a b => (byteClass_gadd a b).symm).symm

/-- The residue of a polynomial's value: R138's sum in the ring of residues. -/
theorem byteClass_polyAt (c : Nat → Byte) (t : Nat) (x : Byte) :
    byteClass (polyAt c t x) = ∑ k ∈ Finset.range t, byteClass (c k) * byteClass x ^ k := by
  rw [polyAt, byteClass_gsum, List.map_map]
  exact congrArg (fun f => ((List.range t).map f).sum) (funext fun k => by simp)

/-- The constant term of a polynomial split off: one round of Horner's rule (R139). -/
theorem polyAt_succ (c : Nat → Byte) (t : Nat) (x : Byte) :
    polyAt c (t + 1) x = gadd (gmul (polyAt (fun k => c (k + 1)) t x) x) (c 0) := by
  refine byteClass_injective ?_
  rw [byteClass_gadd, byteClass_gmul, byteClass_polyAt, byteClass_polyAt, Finset.sum_range_succ', Finset.sum_mul]
  simp only [pow_succ, pow_zero, mul_one, mul_assoc]

/-- Horner's rule over any coefficients, from the highest down (R139). -/
theorem horner_eq_polyAt (c : Nat → Byte) (t : Nat) (x : Byte) :
    (List.range t).foldr (fun k y => gadd (gmul y x) (c k)) 0 = polyAt c t x := by
  induction t generalizing c with
  | zero => rfl
  | succ t ih => rw [List.range_succ_eq_map, List.foldr_cons, List.foldr_map, ih, polyAt_succ]

/-- Settles O32: each round of the loop splits off one coefficient of the sum. -/
theorem hornerEqualsThePolynomialSum : Obligations.HornerEqualsThePolynomialSum :=
  fun s t x j => horner_eq_polyAt (fun k => s.coefByte k j) t x

end Sys2Proof.Machine
end

section
/-! PROOFS. Shares and moves between SECRET and the point slots (44_shamir.md R140, R143, R144). -/

namespace Sys2Proof.Machine

open Sys2Proof.Claims

/-! ### Command words -/

theorem decode_shEval (t x slot : Byte) :
    decode (commandWord 0x10 t x slot) = withUnusedZero 0x10 [] (.shEval t x slot) := by
  simp [decode]

theorem decode_shLoadpt (f1 f2 slot : Byte) :
    decode (commandWord 0x14 f1 f2 slot) = withUnusedZero 0x14 [f1, f2] (.shLoadpt slot) := by
  simp [decode]

theorem decode_shStorept (f1 x slot : Byte) :
    decode (commandWord 0x15 f1 x slot) = withUnusedZero 0x15 [f1] (.shStorept x slot) := by
  simp [decode]

theorem shEval_encodesAs : EncodesAs 0x10 0x00 0x00 0x00 (fun t x slot => .shEval t x slot) := by
  intro f1 f2 f3
  simp only [and_emptyMask, and_self, if_true]
  exact decode_shEval f1 f2 f3

theorem shLoadpt_encodesAs : EncodesAs 0x14 0xFF 0xFF 0x00 (fun _ _ slot => .shLoadpt slot) := by
  intro f1 f2 f3
  simp only [and_fullMask, and_emptyMask, and_true]
  exact (decode_shLoadpt f1 f2 f3).trans (withUnusedZero_pair 0x14 f1 f2 (.shLoadpt f3))

theorem shStorept_encodesAs : EncodesAs 0x15 0xFF 0x00 0x00 (fun _ x slot => .shStorept x slot) := by
  intro f1 f2 f3
  simp only [and_fullMask, and_emptyMask, and_true]
  exact (decode_shStorept f1 f2 f3).trans (withUnusedZero_single 0x15 f1 (.shStorept f2 f3))

/-! ### One point slot written -/

/-- Point slot `slot` with x-coordinate `x` and its first y-values `ys`: what SH.EVAL and SH.STOREPT write. -/
def State.placePoint (s : State) (slot : Nat) (x : Byte) (ys : List Byte) : State :=
  { s with
    px := s.px.setIfInBounds slot x
    py := s.py.setIfInBounds slot (overwrite (s.pointRow slot) ys) }

theorem setIfInBounds_getD {α : Type} {n : Nat} (v : Vector α n) (i : Nat) (a d : α) {k : Nat} (h : k < n) :
    (v.setIfInBounds i a).getD k d = if k = i then a else v.getD k d := by
  simp [Vector.getD, h, Array.getElem_setIfInBounds, eq_comm]

theorem State.placePoint_pointX (s : State) (slot : Nat) (x : Byte) (ys : List Byte) {k : Nat} (hk : k < 16) :
    (s.placePoint slot x ys).pointX k = if k = slot then x else s.pointX k :=
  setIfInBounds_getD s.px slot x 0 hk

theorem State.placePoint_pyAt (s : State) (slot : Nat) (x : Byte) (ys : List Byte) {k j : Nat} (hk : k < 16)
    (hj : j < 32) :
    pyAt (s.placePoint slot x ys) k j = if k = slot ∧ j < ys.length then ys.getD j 0 else pyAt s k j := by
  have hrow : (s.placePoint slot x ys).pointRow k =
      if k = slot then overwrite (s.pointRow slot) ys else s.pointRow k :=
    setIfInBounds_getD s.py slot _ _ hk
  simp only [pyAt, hrow]
  by_cases hslot : k = slot
  · subst hslot
    simp only [if_true, true_and, overwrite_getD _ _ _ _ hj]
  · simp only [hslot, if_false, false_and]

/-! ### SH.EVAL -/

section
variable {t x slot : Byte} {s : State}

theorem shEval_refusesThreshold (ht : ¬ thresholdLegal t.toNat) : RefusesParam (.shEval t x slot) s 0x01 :=
  congrArg (finish s) (if_pos ht)

theorem shEval_refusesZero (ht : thresholdLegal t.toNat) (hx : x = 0) : RefusesParam (.shEval t x slot) s 0x02 :=
  congrArg (finish s) ((if_neg (not_not_intro ht)).trans (if_pos hx))

theorem shEval_refusesSlot (ht : thresholdLegal t.toNat) (hx : x ≠ 0) (hslot : 15 < slot.toNat) :
    RefusesParam (.shEval t x slot) s 0x03 :=
  congrArg (finish s) ((if_neg (not_not_intro ht)).trans ((if_neg hx).trans (if_pos hslot)))

theorem shEval_refusesLen (ht : thresholdLegal t.toNat) (hx : x ≠ 0) (hslot : slot.toNat ≤ 15)
    (hlen : ¬ lenLegal s.byteLen) : RefusesParam (.shEval t x slot) s 0x10 :=
  congrArg (finish s)
    ((if_neg (not_not_intro ht)).trans ((if_neg hx).trans ((if_neg hslot.not_gt).trans (if_pos hlen))))

theorem exec_shEval (ht : thresholdLegal t.toNat) (hx : x ≠ 0) (hslot : slot.toNat ≤ 15)
    (hlen : lenLegal s.byteLen) :
    exec (.shEval t x slot) s =
      .next (s.placePoint slot.toNat x (s.evalBytes t.toNat x s.byteLen)).succeed :=
  congrArg (finish s) ((if_neg (not_not_intro ht)).trans ((if_neg hx).trans
    ((if_neg hslot.not_gt).trans (if_neg (not_not_intro hlen)))))

end

theorem State.evalBytes_length (s : State) (t : Nat) (x : Byte) (l : Nat) : (s.evalBytes t x l).length = l := by
  simp [State.evalBytes]

/-- Byte `j` of a share is R138's sum (R139, R140). -/
theorem State.evalBytes_getD (s : State) (t : Nat) (x : Byte) {l j : Nat} (h : j < l) :
    (s.evalBytes t x l).getD j 0 = polyAt (fun k => s.coefByte k j) t x := by
  rw [← hornerEqualsThePolynomialSum s t x j]
  simp [State.evalBytes, List.getD, h]

/-- Settles O33: past the four checks the command places one point, whose y-values Horner's rule gives. -/
theorem shEvalWritesTheShare : Obligations.ShEvalWritesTheShare := by
  refine ⟨shEval_encodesAs, fun t x slot s => ⟨shEval_refusesThreshold, fun ht ht' => shEval_refusesZero ⟨ht, ht'⟩,
    fun ht ht' => shEval_refusesSlot ⟨ht, ht'⟩, fun ht ht' => shEval_refusesLen ⟨ht, ht'⟩,
    fun ht ht' hx hslot hlen hlen' => ⟨_, exec_shEval ⟨ht, ht'⟩ hx hslot ⟨hlen, hlen'⟩, ?_, ?_, rfl⟩⟩⟩
  · exact fun k hk => s.placePoint_pointX _ x (s.evalBytes t.toNat x s.byteLen) hk
  · intro k hk j hj
    refine (s.placePoint_pyAt _ x _ hk hj).trans ?_
    rw [s.evalBytes_length]
    exact ite_congr rfl (fun ⟨_, hj'⟩ => s.evalBytes_getD _ _ hj') fun _ => rfl

/-! ### SH.LOADPT -/

section
variable {slot : Byte} {s : State}

theorem shLoadpt_refusesSlot (hslot : 15 < slot.toNat) : RefusesParam (.shLoadpt slot) s 0x03 :=
  congrArg (finish s) (if_pos hslot)

theorem shLoadpt_refusesLen (hslot : slot.toNat ≤ 15) (hlen : ¬ lenLegal s.byteLen) :
    RefusesParam (.shLoadpt slot) s 0x10 :=
  congrArg (finish s) ((if_neg hslot.not_gt).trans (if_pos hlen))

theorem exec_shLoadpt (hslot : slot.toNat ≤ 15) (hlen : lenLegal s.byteLen) :
    exec (.shLoadpt slot) s =
      .next { s with
        secret := overwrite s.secret (firstOf (s.pointRow slot.toNat) s.byteLen)
        done := true
        phase := .idle } :=
  congrArg (finish s) ((if_neg hslot.not_gt).trans (if_neg (not_not_intro hlen)))

end

/-- The head of one buffer written over the head of another of the same size (D32). -/
theorem overwrite_firstOf_getD {α : Type} {n : Nat} (buf src : Vector α n) {k j : Nat} (d : α) (hk : k ≤ n)
    (hj : j < n) : (overwrite buf (firstOf src k)).getD j d = if j < k then src.getD j d else buf.getD j d := by
  rw [overwrite_getD _ _ _ _ hj, firstOf_length, Nat.min_eq_left hk]
  exact ite_congr rfl (fun hj' => firstOf_getD _ _ _ _ hj') fun _ => rfl

/-- Settles O36: past the two checks the command copies the head of the slot's row over the head of SECRET. -/
theorem shLoadptMovesTheValue : Obligations.ShLoadptMovesTheValue := by
  refine ⟨shLoadpt_encodesAs, fun slot s => ⟨shLoadpt_refusesSlot, shLoadpt_refusesLen, fun hslot hlen hlen' =>
    ⟨_, exec_shLoadpt hslot ⟨hlen, hlen'⟩, fun j hj => ?_, rfl⟩⟩⟩
  exact overwrite_firstOf_getD s.secret (s.pointRow slot.toNat) 0 hlen' hj

/-! ### SH.STOREPT -/

section
variable {x slot : Byte} {s : State}

theorem shStorept_refusesSlot (hslot : 15 < slot.toNat) : RefusesParam (.shStorept x slot) s 0x03 :=
  congrArg (finish s) (if_pos hslot)

theorem shStorept_refusesLen (hslot : slot.toNat ≤ 15) (hlen : ¬ lenLegal s.byteLen) :
    RefusesParam (.shStorept x slot) s 0x10 :=
  congrArg (finish s) ((if_neg hslot.not_gt).trans (if_pos hlen))

theorem exec_shStorept (hslot : slot.toNat ≤ 15) (hlen : lenLegal s.byteLen) :
    exec (.shStorept x slot) s = .next (s.placePoint slot.toNat x s.secretBytes).succeed :=
  congrArg (finish s) ((if_neg hslot.not_gt).trans (if_neg (not_not_intro hlen)))

end

/-- Settles O37: past the two checks the command places one point, whose y-values are the head of SECRET. -/
theorem shStoreptPlacesThePoint : Obligations.ShStoreptPlacesThePoint := by
  refine ⟨shStorept_encodesAs, fun x slot s => ⟨shStorept_refusesSlot, shStorept_refusesLen,
    fun hslot hlen hlen' => ⟨_, exec_shStorept hslot ⟨hlen, hlen'⟩, ?_, ?_, rfl⟩⟩⟩
  · exact fun k hk => s.placePoint_pointX _ x s.secretBytes hk
  · intro k hk j hj
    refine (s.placePoint_pyAt _ x _ hk hj).trans ?_
    rw [State.secretBytes, firstOf_length, Nat.min_eq_left hlen']
    exact ite_congr rfl (fun ⟨_, hj'⟩ => firstOf_getD _ _ _ _ hj') fun _ => rfl

end Sys2Proof.Machine
end

section
/-! PROOFS. The points SH.INTERP uses, and what it makes of them (44_shamir.md R145 to R147). -/

namespace Sys2Proof.Machine

open Sys2Proof.Claims

/-! ### One point read, by what was read before it -/

section
variable {seen : List Point} {p : Point}

theorem find?_of_sameX (hx : ∃ q ∈ seen, q.x = p.x) :
    ∃ q ∈ seen, q.x = p.x ∧ seen.find? (fun q => q.x == p.x) = some q := by
  obtain ⟨q, hq⟩ : ∃ q, seen.find? (fun q => q.x == p.x) = some q := by
    simpa [← Option.isSome_iff_exists] using hx
  exact ⟨q, List.mem_of_find?_eq_some hq, by simpa using List.find?_some hq, hq⟩

variable (ps : List Point)

/-- A point whose x is there with the same y only is skipped (R147). -/
theorem distinctPoints_cons_repeat (hx : ∃ q ∈ seen, q.x = p.x) (hy : ∀ q ∈ seen, q.x = p.x → q.y = p.y) :
    distinctPoints seen (p :: ps) = distinctPoints seen ps := by
  obtain ⟨q, hmem, hqx, hfind⟩ := find?_of_sameX hx
  rw [distinctPoints, hfind]
  exact if_pos (hy q hmem hqx)

/-- A point whose x is there with another y only is the error (R147). -/
theorem distinctPoints_cons_conflict (hx : ∃ q ∈ seen, q.x = p.x) (hy : ∀ q ∈ seen, q.x = p.x → q.y ≠ p.y) :
    distinctPoints seen (p :: ps) = .error p.slot := by
  obtain ⟨q, hmem, hqx, hfind⟩ := find?_of_sameX hx
  rw [distinctPoints, hfind]
  exact if_neg (hy q hmem hqx)

/-- A point with a new x is kept (R147). -/
theorem distinctPoints_cons_new (hx : ∀ q ∈ seen, q.x ≠ p.x) :
    distinctPoints seen (p :: ps) = distinctPoints (seen ++ [p]) ps := by
  have hnone : seen.find? (fun q => q.x == p.x) = none := List.find?_eq_none.2 (by simpa using hx)
  rw [distinctPoints, hnone]

end

/-! ### The points read from a list of slots -/

/-- Slot `k` repeats the x of an earlier slot of `ks` with another y. -/
def slotConflict (f : Nat → Point) (ks : List Nat) (k : Nat) : Prop :=
  ∃ m ∈ ks, m < k ∧ (f m).x = (f k).x ∧ (f m).y ≠ (f k).y

/-- The slots of `ks` whose x no earlier slot of `ks` has. -/
def firstSlots (f : Nat → Point) (ks : List Nat) : List Nat :=
  ks.filter fun k => ∀ m ∈ ks, m < k → (f m).x ≠ (f k).x

section
variable {f : Nat → Point} {ks : List Nat} {k : Nat}

theorem mem_firstSlots : k ∈ firstSlots f ks ↔ k ∈ ks ∧ ∀ m ∈ ks, m < k → (f m).x ≠ (f k).x := by
  simp [firstSlots]

/-- Every x is first seen somewhere. -/
theorem exists_firstSlot (hk : k ∈ ks) : ∃ m ∈ firstSlots f ks, (f m).x = (f k).x := by
  induction k using Nat.strong_induction_on with
  | _ k ih =>
    by_cases hfirst : k ∈ firstSlots f ks
    · exact ⟨k, hfirst, rfl⟩
    · rw [mem_firstSlots] at hfirst
      push Not at hfirst
      obtain ⟨j, hj, hjk, hx⟩ := hfirst hk
      obtain ⟨m, hm, hmx⟩ := ih j hjk hj
      exact ⟨m, hm, hmx.trans hx⟩

/-- Without a conflict a slot has the y of the first slot with its x. -/
theorem y_eq_of_firstSlot (hclean : ∀ m ∈ ks, ¬ slotConflict f ks m) {m : Nat} (hm : m ∈ firstSlots f ks)
    (hk : k ∈ ks) (hx : (f m).x = (f k).x) : (f m).y = (f k).y := by
  obtain ⟨hmem, hfirst⟩ := mem_firstSlots.1 hm
  obtain hlt | rfl | hgt := lt_trichotomy m k
  · by_contra hy
    exact hclean k hk ⟨m, hmem, hlt, hx, hy⟩
  · rfl
  · exact absurd hx.symm (hfirst k hk hgt)

/-- One more slot, after all of `ks`. -/
theorem firstSlots_concat (hlast : ∀ m ∈ ks, m < k) :
    firstSlots f (ks ++ [k]) = firstSlots f ks ++ if ∀ m ∈ ks, (f m).x ≠ (f k).x then [k] else [] := by
  have hold : ∀ j ∈ ks, (∀ m ∈ ks ++ [k], m < j → (f m).x ≠ (f j).x) ↔ ∀ m ∈ ks, m < j → (f m).x ≠ (f j).x := by
    intro j hj
    rw [List.forall_mem_append, List.forall_mem_singleton]
    exact and_iff_left fun hkj => absurd hkj (hlast j hj).not_gt
  have hnew : (∀ m ∈ ks ++ [k], m < k → (f m).x ≠ (f k).x) ↔ ∀ m ∈ ks, (f m).x ≠ (f k).x := by
    rw [List.forall_mem_append, List.forall_mem_singleton, and_iff_left fun hkk => absurd hkk (lt_irrefl k)]
    exact forall₂_congr fun m hm => imp_iff_right (hlast m hm)
  rw [firstSlots, List.filter_append, List.filter_singleton, decide_eq_decide.2 hnew, Bool.cond_decide, firstSlots,
    List.filter_congr fun j hj => decide_eq_decide.2 (hold j hj)]

theorem slotConflict_concat {j : Nat} (h : slotConflict f ks j) : slotConflict f (ks ++ [k]) j := by
  obtain ⟨m, hm, hrest⟩ := h
  exact ⟨m, List.mem_append_left _ hm, hrest⟩

/-- A slot without conflict is taken into the points kept so far, or skipped where its x is there. -/
theorem distinctPoints_firstSlots_cons (hlast : ∀ m ∈ ks, m < k)
    (hk : ¬ slotConflict f ks k) (ps : List Point) :
    distinctPoints ((firstSlots f ks).map f) (f k :: ps) =
      distinctPoints ((firstSlots f (ks ++ [k])).map f) ps := by
  rw [firstSlots_concat hlast]
  split
  · rename_i hnew
    rw [List.map_append]
    refine distinctPoints_cons_new ps fun q hq => ?_
    obtain ⟨m, hm, rfl⟩ := List.mem_map.1 hq
    exact hnew m (mem_firstSlots.1 hm).1
  · rename_i hold
    push Not at hold
    obtain ⟨j, hj, hjx⟩ := hold
    obtain ⟨m, hm, hmx⟩ := exists_firstSlot (f := f) hj
    rw [List.append_nil]
    refine distinctPoints_cons_repeat ps ⟨f m, List.mem_map_of_mem hm, hmx.trans hjx⟩ fun q hq hqx => ?_
    obtain ⟨i, hi, rfl⟩ := List.mem_map.1 hq
    have hmem := (mem_firstSlots.1 hi).1
    by_contra hy
    exact hk ⟨i, hmem, hlast i hmem, hqx, hy⟩

/-- The first slot with a conflict stops the scan. -/
theorem distinctPoints_firstSlots_conflict (hclean : ∀ m ∈ ks, ¬ slotConflict f ks m)
    (hk : slotConflict f ks k) (ps : List Point) :
    distinctPoints ((firstSlots f ks).map f) (f k :: ps) = .error (f k).slot := by
  obtain ⟨j, hj, -, hjx, hjy⟩ := hk
  obtain ⟨m, hm, hmx⟩ := exists_firstSlot (f := f) hj
  refine distinctPoints_cons_conflict ps ⟨f m, List.mem_map_of_mem hm, hmx.trans hjx⟩ fun q hq hqx => ?_
  obtain ⟨i, hi, rfl⟩ := List.mem_map.1 hq
  rwa [y_eq_of_firstSlot hclean hi hj (hqx.trans hjx.symm)]

/-- Slots in ascending order without a conflict leave their first slots' points. -/
theorem distinctPoints_map_append (hsorted : ks.Pairwise (· < ·)) (hclean : ∀ m ∈ ks, ¬ slotConflict f ks m)
    (ps : List Point) :
    distinctPoints [] (ks.map f ++ ps) = distinctPoints ((firstSlots f ks).map f) ps := by
  induction ks using List.reverseRecOn generalizing ps with
  | nil => rfl
  | append_singleton ks k ih =>
    obtain ⟨hinit, -, hlast⟩ := List.pairwise_append.1 hsorted
    have hlast : ∀ m ∈ ks, m < k := fun m hm => hlast m hm k (List.mem_singleton_self k)
    have hcleanInit : ∀ m ∈ ks, ¬ slotConflict f ks m := fun m hm hconf =>
      hclean m (List.mem_append_left _ hm) (slotConflict_concat hconf)
    have hk : ¬ slotConflict f ks k := fun hconf =>
      hclean k (List.mem_append_right _ (List.mem_singleton_self k)) (slotConflict_concat hconf)
    rw [List.map_append, List.append_assoc, ih hinit hcleanInit]
    exact distinctPoints_firstSlots_cons hlast hk ps

/-- R147's scan without a conflict. -/
theorem distinctPoints_map_ok (hsorted : ks.Pairwise (· < ·)) (hclean : ∀ m ∈ ks, ¬ slotConflict f ks m) :
    distinctPoints [] (ks.map f) = .ok ((firstSlots f ks).map f) := by
  have hscan := distinctPoints_map_append hsorted hclean []
  rwa [List.append_nil] at hscan

/-- R147's scan with its first conflict at slot `k`. -/
theorem distinctPoints_map_error (hsorted : ks.Pairwise (· < ·)) (hk : k ∈ ks) (hconf : slotConflict f ks k)
    (hclean : ∀ m ∈ ks, m < k → ¬ slotConflict f ks m) :
    distinctPoints [] (ks.map f) = .error (f k).slot := by
  obtain ⟨pre, post, rfl⟩ := List.append_of_mem hk
  obtain ⟨hpre, hpost, hbefore⟩ := List.pairwise_append.1 hsorted
  have hlt : ∀ m ∈ pre, m < k := fun m hm => hbefore m hm k (List.mem_cons_self ..)
  have hcleanPre : ∀ m ∈ pre, ¬ slotConflict f pre m := by
    rintro m hm ⟨j, hj, hrest⟩
    exact hclean m (List.mem_append_left _ hm) (hlt m hm) ⟨j, List.mem_append_left _ hj, hrest⟩
  have hconfPre : slotConflict f pre k := by
    obtain ⟨j, hj, hjk, hrest⟩ := hconf
    have hnot : j ∉ k :: post := by
      rw [List.mem_cons, not_or]
      exact ⟨hjk.ne, fun hmem => hjk.not_gt (List.rel_of_pairwise_cons hpost hmem)⟩
    exact ⟨j, (List.mem_append.1 hj).resolve_right hnot, hjk, hrest⟩
  rw [List.map_append, distinctPoints_map_append hpre hcleanPre, List.map_cons]
  exact distinctPoints_firstSlots_conflict hcleanPre hconfPre _

end

/-! ### The points of slots 0 to NPTS−1 -/

/-- The point in slot `k`, as SH.INTERP reads it (R147). -/
def State.slotPoint (s : State) (k : Nat) : Point := ⟨k, s.pointX k, firstOf (s.pointRow k) s.byteLen⟩

theorem State.points_eq_map (s : State) (n : Nat) : s.points n s.byteLen = (List.range n).map s.slotPoint := rfl

theorem State.slotPoint_y {s : State} (hlen : s.byteLen ≤ 32) (k : Nat) : (s.slotPoint k).y = slotY s k :=
  firstOf_eq_map_range _ 0 hlen

theorem slotConflict_range {s : State} (hlen : s.byteLen ≤ 32) {n k : Nat} (hk : k < n) :
    slotConflict s.slotPoint (List.range n) k ↔ conflictsAt s k := by
  simp only [slotConflict, conflictsAt, State.slotPoint_y hlen]
  exact exists_congr fun m =>
    ⟨fun ⟨_, hmk, hrest⟩ => ⟨hmk, hrest⟩, fun ⟨hmk, hrest⟩ => ⟨List.mem_range.2 (hmk.trans hk), hmk, hrest⟩⟩

theorem firstSlots_range (s : State) : firstSlots s.slotPoint (List.range s.npts.toNat) = freshSlots s := by
  refine List.filter_congr fun k hk => decide_eq_decide.2 ?_
  exact ⟨fun h m hmk => h m (List.mem_range.2 (hmk.trans (List.mem_range.1 hk))) hmk, fun h m _ => h m⟩

/-! ### Interpolation at 0 -/

/-- Byte `j` of a point: its x-coordinate and one y-byte. -/
def Point.byteAt (j : Nat) (p : Point) : Byte × Byte := (p.x, p.y.getD j 0)

/-- R145 and R146 as one formula over the points' x and byte `j`. -/
theorem interpByte_eq_lagrangeAtZero (ps : List Point) (j : Nat) :
    interpByte ps j = lagrangeAtZero (ps.map (Point.byteAt j)) := by
  have hx : ∀ m, ((ps.map (Point.byteAt j)).getD m (0, 0)).1 = (ps.map Point.x).getD m 0 := by
    intro m
    rw [← List.getD_map _ _ Prod.fst, List.map_map]
    rfl
  refine congrArg gsum (List.ext_getElem (by simp) fun i hi _ => ?_)
  have hi : i < ps.length := by simpa using hi
  have hy : ((ps.map (Point.byteAt j)).getD i (0, 0)).2 = ps[i].y.getD j 0 := by simp [List.getD, Point.byteAt, hi]
  simp only [List.getElem_map, List.getElem_zipIdx, List.getElem_range, Nat.zero_add, lbasis, hx, hy, List.length_map]

/-! ### SH.INTERP -/

theorem decode_shInterp (t f2 f3 : Byte) :
    decode (commandWord 0x13 t f2 f3) = withUnusedZero 0x13 [f2, f3] (.shInterp t) := by
  simp [decode]

theorem shInterp_encodesAs : EncodesAs 0x13 0x00 0xFF 0xFF (fun t _ _ => .shInterp t) := by
  intro f1 f2 f3
  simp only [and_fullMask, and_emptyMask, true_and]
  exact (decode_shInterp f1 f2 f3).trans (withUnusedZero_pair 0x13 f2 f3 (.shInterp f1))

section
variable {t : Byte} {s : State}

theorem shInterp_refusesThreshold (ht : ¬ thresholdLegal t.toNat) : RefusesParam (.shInterp t) s 0x01 :=
  congrArg (finish s) (if_pos ht)

theorem shInterp_refusesCount (ht : thresholdLegal t.toNat) (hn : 16 < s.npts.toNat) :
    RefusesParam (.shInterp t) s 0x13 :=
  congrArg (finish s) ((if_neg (not_not_intro ht)).trans (if_pos hn))

theorem shInterp_refusesLen (ht : thresholdLegal t.toNat) (hn : s.npts.toNat ≤ 16) (hlen : ¬ lenLegal s.byteLen) :
    RefusesParam (.shInterp t) s 0x10 :=
  congrArg (finish s) ((if_neg (not_not_intro ht)).trans ((if_neg hn.not_gt).trans (if_pos hlen)))

theorem exec_shInterp (ht : thresholdLegal t.toNat) (hn : s.npts.toNat ≤ 16) (hlen : lenLegal s.byteLen) :
    exec (.shInterp t) s = finish s (s.interpolate t.toNat) :=
  congrArg (finish s)
    ((if_neg (not_not_intro ht)).trans ((if_neg hn.not_gt).trans (if_neg (not_not_intro hlen))))

end

section
variable {s : State} (t : Nat)

theorem State.interpolate_conflict (hlen : s.byteLen ≤ 32) {k : Nat} (hk : k < s.npts.toNat)
    (hconf : conflictsAt s k) (hfirst : ∀ m < k, ¬ conflictsAt s m) :
    s.interpolate t = raise .duplicateShare k 0 := by
  have hscan : distinctPoints [] (s.points s.npts.toNat s.byteLen) = .error k :=
    distinctPoints_map_error List.pairwise_lt_range (List.mem_range.2 hk) ((slotConflict_range hlen hk).2 hconf)
      fun m _ hmk h => hfirst m hmk ((slotConflict_range hlen (hmk.trans hk)).1 h)
  rw [State.interpolate, hscan]

theorem State.interpolate_noConflict (hlen : s.byteLen ≤ 32) (hclean : ∀ k < s.npts.toNat, ¬ conflictsAt s k) :
    s.interpolate t =
      if (freshSlots s).length < t then raise .insufficientShares (freshSlots s).length 0
      else .ok { s with
        secret := overwrite s.secret (interp0 (((freshSlots s).take t).map s.slotPoint) s.byteLen) } := by
  have hscan : distinctPoints [] (s.points s.npts.toNat s.byteLen) = .ok ((freshSlots s).map s.slotPoint) := by
    rw [← firstSlots_range]
    exact distinctPoints_map_ok List.pairwise_lt_range fun k hk h =>
      hclean k (List.mem_range.1 hk) ((slotConflict_range hlen (List.mem_range.1 hk)).1 h)
  simp only [State.interpolate, hscan, List.length_map, List.map_take]

end

/-- Byte `j` that the points of some slots rebuild (R146). -/
theorem State.overwrite_interp0_getD (s : State) (ks : List Nat) {j : Nat} (hj : j < 32) :
    (overwrite s.secret (interp0 (ks.map s.slotPoint) s.byteLen)).getD j 0 =
      if j < s.byteLen then lagrangeAtZero (ks.map fun k => (s.pointX k, pyAt s k j)) else secretAt s j := by
  have hlength : (interp0 (ks.map s.slotPoint) s.byteLen).length = s.byteLen := by simp [interp0]
  rw [overwrite_getD _ _ _ _ hj, hlength]
  refine ite_congr rfl (fun hj' => ?_) fun _ => rfl
  have hbyte : (interp0 (ks.map s.slotPoint) s.byteLen).getD j 0 = interpByte (ks.map s.slotPoint) j := by
    simp [interp0, List.getD, hj']
  rw [hbyte, interpByte_eq_lagrangeAtZero, List.map_map]
  refine congrArg lagrangeAtZero (List.map_congr_left fun k _ => ?_)
  exact congrArg (Prod.mk (s.pointX k)) (firstOf_getD _ _ _ _ hj')

/-- Settles O38: past the three checks the scan of the slots decides between the two reports and the write, and the
points kept are those of the fresh slots. -/
theorem shInterpInterpolatesAtZero : Obligations.ShInterpInterpolatesAtZero := by
  refine ⟨shInterp_encodesAs, fun t s => ⟨shInterp_refusesThreshold, fun ht ht' => shInterp_refusesCount ⟨ht, ht'⟩,
    fun ht ht' => shInterp_refusesLen ⟨ht, ht'⟩, fun ht ht' hn hlen hlen' => ?_⟩⟩
  have hexec := exec_shInterp ⟨ht, ht'⟩ hn ⟨hlen, hlen'⟩
  refine ⟨fun k hk hconf hfirst => ?_, fun hclean hfew => ?_, fun hclean henough => ?_⟩
  · exact hexec.trans (congrArg (finish s) (State.interpolate_conflict _ hlen' hk hconf hfirst))
  · rw [State.interpolate_noConflict _ hlen' hclean, if_pos hfew] at hexec
    exact hexec
  · rw [State.interpolate_noConflict _ hlen' hclean, if_neg henough.not_gt] at hexec
    exact ⟨_, hexec, fun j hj => s.overwrite_interp0_getD _ hj, rfl⟩

end Sys2Proof.Machine
end

section
/-! PROOFS. The commands SS.CLEAR and NOP (45_share_codec.md R159; 48_control.md R185). -/

namespace Sys2Proof.Machine

open Sys2Proof.Claims

/-! ### Command words -/

theorem decode_ssClear (f1 f2 f3 : Byte) :
    decode (commandWord 0x52 f1 f2 f3) = withUnusedZero 0x52 [f1, f2, f3] .ssClear := by
  simp [decode]

theorem decode_nop (f1 f2 f3 : Byte) :
    decode (commandWord 0x00 f1 f2 f3) = withUnusedZero 0x00 [f1, f2, f3] .nop := by
  simp [decode]

theorem ssClear_encodesAs : EncodesAs 0x52 0xFF 0xFF 0xFF (fun _ _ _ => .ssClear) := by
  intro f1 f2 f3
  simp only [and_fullMask]
  exact (decode_ssClear f1 f2 f3).trans (withUnusedZero_triple 0x52 f1 f2 f3 .ssClear)

theorem nop_encodesAs : EncodesAs 0x00 0xFF 0xFF 0xFF (fun _ _ _ => .nop) := by
  intro f1 f2 f3
  simp only [and_fullMask]
  exact (decode_nop f1 f2 f3).trans (withUnusedZero_triple 0x00 f1 f2 f3 .nop)

/-! ### What the commands do -/

theorem exec_ssClear (s : State) :
    exec .ssClear s = .next { s with store := [], done := true, phase := .idle } := rfl

theorem exec_nop (s : State) : exec .nop s = .next { s with done := true, phase := .idle } := rfl

/-- Settles O56: each word has all three fields unused, and each command completes the state its rule gives. -/
theorem ssClearEmptiesTheStoreAndNopNothing : Obligations.SsClearEmptiesTheStoreAndNopNothing :=
  ⟨ssClear_encodesAs, nop_encodesAs, exec_ssClear, exec_nop⟩

end Sys2Proof.Machine
end

section
/-! PROOFS. The digit codec (46_digit.md R169, R170, R171). -/

namespace Sys2Proof.Machine

open Sys2Proof.Claims

/-! ### Command words -/

theorem decode_dgTodigits (f1 f2 f3 : Byte) :
    decode (commandWord 0x40 f1 f2 f3) = withUnusedZero 0x40 [f1, f2, f3] .dgTodigits := by
  simp [decode]

theorem decode_dgFromdigits (f1 f2 f3 : Byte) :
    decode (commandWord 0x41 f1 f2 f3) = withUnusedZero 0x41 [f1, f2, f3] .dgFromdigits := by
  simp [decode]

theorem dgTodigits_encodesAs : EncodesAs 0x40 0xFF 0xFF 0xFF (fun _ _ _ => .dgTodigits) := by
  intro f1 f2 f3
  simp only [and_fullMask]
  exact (decode_dgTodigits f1 f2 f3).trans (withUnusedZero_triple 0x40 f1 f2 f3 .dgTodigits)

theorem dgFromdigits_encodesAs : EncodesAs 0x41 0xFF 0xFF 0xFF (fun _ _ _ => .dgFromdigits) := by
  intro f1 f2 f3
  simp only [and_fullMask]
  exact (decode_dgFromdigits f1 f2 f3).trans (withUnusedZero_triple 0x41 f1 f2 f3 .dgFromdigits)

/-! ### The four characters of a word index (R169) -/

theorem digitChar_toNat {d : Nat} (h : d < 10) : (digitChar d).toNat = 0x30 + d := by
  rw [digitChar, BitVec.toNat_ofNat]
  omega

theorem dig4_length (w : WordIndex) : (dig4 w).length = 4 := rfl

/-- Character `k` of a word index is its decimal digit of weight `10 ^ (3 - k)`. -/
theorem dig4_getD_toNat (w : WordIndex) {k : Nat} (hk : k < 4) :
    ((dig4 w).getD k 0).toNat = 0x30 + w.toNat / 10 ^ (3 - k) % 10 := by
  match k, hk with
  | 0, _ | 1, _ | 2, _ => exact digitChar_toNat (Nat.mod_lt _ (by decide))
  | 3, _ => exact (digitChar_toNat (Nat.mod_lt _ (by decide))).trans (by simp)

theorem flatMap_dig4_length (ws : List WordIndex) : (ws.flatMap dig4).length = 4 * ws.length := by
  simp [List.length_flatMap, dig4_length, Nat.mul_comm]

/-- Characters `4i` to `4i+3` of a digit string are those of its word `i`. -/
theorem flatMap_dig4_getD (ws : List WordIndex) {i k : Nat} (hi : i < ws.length) (hk : k < 4) :
    (ws.flatMap dig4).getD (4 * i + k) 0 = (dig4 (ws.getD i 0)).getD k 0 := by
  induction ws generalizing i with
  | nil => exact absurd hi (Nat.not_lt_zero _)
  | cons w ws ih =>
    rw [List.flatMap_cons]
    cases i with
    | zero => rw [Nat.mul_zero, Nat.zero_add, List.getD_append _ _ _ _ hk, List.getD_cons_zero]
    | succ i =>
      rw [List.getD_append_right _ _ _ _ (by rw [dig4_length]; omega), dig4_length,
        show 4 * (i + 1) + k - 4 = 4 * i + k by omega, ih (Nat.lt_of_succ_lt_succ hi), List.getD_cons_succ]

/-! ### DG.TODIGITS -/

theorem dgTodigits_refusesCount {s : State} (h : 32 < s.wordCount) : RefusesParam .dgTodigits s 0x11 :=
  congrArg (finish s) (if_pos h)

theorem exec_dgTodigits {s : State} (h : s.wordCount ≤ 32) :
    exec .dgTodigits s =
      .next { s with
        digits := overwrite s.digits (s.activeWords.flatMap dig4)
        dcount := BitVec.ofNat 8 (4 * s.wordCount)
        done := true
        phase := .idle } :=
  congrArg (finish s) (if_neg h.not_gt)

/-- Settles O49: the WCOUNT check decides between the report and the write; the digit string of at most 32 words fits
DIGITS, and each of its words is four characters. -/
theorem dgTodigitsWritesFourDigits : Obligations.DgTodigitsWritesFourDigits := by
  refine ⟨dgTodigits_encodesAs, fun s => ⟨dgTodigits_refusesCount, fun hcount => ?_⟩⟩
  have hwords := activeWords_length hcount
  have hchars := flatMap_dig4_length s.activeWords
  rw [hwords] at hchars
  refine ⟨_, exec_dgTodigits hcount, ?_, fun i hi k hk => ?_, fun j hj hge => ?_, rfl⟩
  · exact Nat.mod_eq_of_lt (show 4 * s.wordCount < 256 by omega)
  · rw [digitAt, overwrite_getD _ _ _ _ (by omega), if_pos (by omega), flatMap_dig4_getD _ (by omega) hk,
      dig4_getD_toNat _ hk, State.activeWords, firstOf_getD _ _ _ _ hi]
  · rw [digitAt, overwrite_getD _ _ _ _ hj, if_neg (by omega)]

/-! ### The words of a digit string (R171) -/

/-- The characters at word position `i`. -/
def wordChars (c : Nat → Byte) (i : Nat) : List Byte := [c (4 * i), c (4 * i + 1), c (4 * i + 2), c (4 * i + 3)]

/-- The characters at word position `i` are decimal digits. -/
def AllDigits (c : Nat → Byte) (i : Nat) : Prop :=
  ∀ k < 4, 0x30 ≤ (c (4 * i + k)).toNat ∧ (c (4 * i + k)).toNat ≤ 0x39

/-- The number the characters at word position `i` denote. -/
def wordValue (c : Nat → Byte) (i : Nat) : Nat :=
  digitsValue (c (4 * i)) (c (4 * i + 1)) (c (4 * i + 2)) (c (4 * i + 3))

/-- The characters at word position `i` denote a word index. -/
def GoodWord (c : Nat → Byte) (i : Nat) : Prop := AllDigits c i ∧ wordValue c i ≤ 2047

/-- The word index the characters at word position `i` denote. -/
def parsedWord (c : Nat → Byte) (i : Nat) : WordIndex := BitVec.ofNat 11 (wordValue c i)

theorem isDigit_iff (c : Byte) : isDigit c ↔ 0x30 ≤ c.toNat ∧ c.toNat ≤ 0x39 := by
  simp [isDigit]

/-- The first `4n` characters, word by word. -/
theorem map_range_eq_flatMap_wordChars (c : Nat → Byte) (n : Nat) :
    (List.range (4 * n)).map c = (List.range n).flatMap (wordChars c) := by
  induction n with
  | zero => rfl
  | succ n ih =>
    rw [Nat.mul_succ, List.range_add, List.map_append, ih, List.range_succ (n := n),
      List.flatMap_append, List.flatMap_singleton]
    rfl

theorem State.digitChars_eq_flatMap {s : State} (h4 : s.digitCount % 4 = 0) (hle : s.digitCount ≤ 128) :
    s.digitChars = (List.range (s.digitCount / 4)).flatMap (wordChars (digitAt s)) := by
  rw [← map_range_eq_flatMap_wordChars, Nat.mul_div_cancel' (Nat.dvd_of_mod_eq_zero h4)]
  exact firstOf_eq_map_range _ 0 hle

section
variable {c : Nat → Byte} {i n : Nat}

theorem allDigits_iff :
    AllDigits c i ↔ isDigit (c (4 * i)) ∧ isDigit (c (4 * i + 1)) ∧ isDigit (c (4 * i + 2)) ∧
      isDigit (c (4 * i + 3)) := by
  simp only [isDigit_iff]
  constructor
  · exact fun h => ⟨h 0 (by decide), h 1 (by decide), h 2 (by decide), h 3 (by decide)⟩
  · rintro ⟨h0, h1, h2, h3⟩ k hk
    match k, hk with
    | 0, _ => exact h0
    | 1, _ => exact h1
    | 2, _ => exact h2
    | 3, _ => exact h3

theorem parsedWord_toNat (h : wordValue c i ≤ 2047) : (parsedWord c i).toNat = wordValue c i := by
  rw [parsedWord, BitVec.toNat_ofNat]
  omega

theorem parseDigits_badChar (h : ¬ AllDigits c i) (rest : List Byte) :
    parseDigits i (wordChars c i ++ rest) = .error ⟨.invalidDigitFormat, i, 2⟩ :=
  if_pos (allDigits_iff.not.1 h)

theorem parseDigits_tooLarge (h : AllDigits c i) (hbig : 2047 < wordValue c i) (rest : List Byte) :
    parseDigits i (wordChars c i ++ rest) = .error ⟨.invalidDigitFormat, i, 3⟩ :=
  (if_neg (not_not_intro (allDigits_iff.1 h))).trans (if_pos hbig)

theorem parseDigits_goodWord (h : GoodWord c i) (rest : List Byte) :
    parseDigits i (wordChars c i ++ rest) = (parseDigits (i + 1) rest).map (parsedWord c i :: ·) := by
  obtain ⟨hdigits, hsmall⟩ := h
  simp only [wordChars, List.cons_append, List.nil_append]
  rw [parseDigits, if_neg (not_not_intro (allDigits_iff.1 hdigits)), ← wordValue, if_neg hsmall.not_gt]
  cases parseDigits (i + 1) rest <;> rfl

/-- The parse passes over good words, whatever follows them. -/
theorem parseDigits_goodWords (h : ∀ m < n, GoodWord c m) (rest : List Byte) :
    parseDigits 0 ((List.range n).flatMap (wordChars c) ++ rest) =
      (parseDigits n rest).map ((List.range n).map (parsedWord c) ++ ·) := by
  induction n generalizing rest with
  | zero => cases hrest : parseDigits 0 rest <;> simp [Except.map, hrest]
  | succ n ih =>
    rw [List.range_succ, List.flatMap_append, List.flatMap_singleton, List.append_assoc,
      ih (fun m hm => h m (Nat.lt_succ_of_lt hm)), parseDigits_goodWord (h n n.lt_succ_self)]
    cases parseDigits (n + 1) rest <;> simp [Except.map]

/-- A string of good words parses to their indices. -/
theorem parseDigits_ok (h : ∀ m < n, GoodWord c m) :
    parseDigits 0 ((List.range n).flatMap (wordChars c)) = .ok ((List.range n).map (parsedWord c)) := by
  have hparse := parseDigits_goodWords h []
  rw [List.append_nil] at hparse
  exact hparse.trans (congrArg Except.ok (List.append_nil _))

/-- The report at the first word that is not good is the string's. -/
theorem parseDigits_firstBad {r : Report} (hi : i < n) (hbefore : ∀ m < i, GoodWord c m)
    (hbad : ∀ rest, parseDigits i (wordChars c i ++ rest) = .error r) :
    parseDigits 0 ((List.range n).flatMap (wordChars c)) = .error r := by
  obtain ⟨k, rfl⟩ := Nat.exists_eq_add_of_lt hi
  rw [Nat.add_right_comm, List.range_add, List.flatMap_append, List.range_succ, List.flatMap_append,
    List.flatMap_singleton, List.append_assoc, parseDigits_goodWords hbefore, hbad]
  rfl

end

/-! ### DG.FROMDIGITS -/

section
variable {s : State}

theorem dgFromdigits_refusesCount (h : s.digitCount % 4 ≠ 0 ∨ 128 < s.digitCount) :
    Reports .dgFromdigits s 0x0B s.digitCount 1 :=
  congrArg (finish s) (if_pos h)

/-- Past the DCOUNT check the parse decides. -/
theorem exec_dgFromdigits (h4 : s.digitCount % 4 = 0) (hle : s.digitCount ≤ 128) :
    exec .dgFromdigits s =
      finish s ((parseDigits 0 ((List.range (s.digitCount / 4)).flatMap (wordChars (digitAt s)))).map fun ws =>
        { s with words := overwrite s.words ws, wcount := BitVec.ofNat 6 (s.digitCount / 4) }) := by
  rw [← State.digitChars_eq_flatMap h4 hle]
  refine congrArg (finish s) ((if_neg fun h => h.elim (absurd h4) hle.not_gt).trans ?_)
  cases parseDigits 0 s.digitChars <;> rfl

theorem dgFromdigits_reports {i sub : Nat} (h4 : s.digitCount % 4 = 0) (hle : s.digitCount ≤ 128)
    (hi : i < s.digitCount / 4) (hbefore : ∀ m < i, GoodWord (digitAt s) m)
    (hbad : ∀ rest, parseDigits i (wordChars (digitAt s) i ++ rest) = .error ⟨.invalidDigitFormat, i, sub⟩) :
    Reports .dgFromdigits s 0x0B i sub := by
  rw [Reports, exec_dgFromdigits h4 hle, parseDigits_firstBad hi hbefore hbad]
  rfl

theorem dgFromdigits_writes (h4 : s.digitCount % 4 = 0) (hle : s.digitCount ≤ 128)
    (hgood : ∀ i < s.digitCount / 4, GoodWord (digitAt s) i) :
    exec .dgFromdigits s =
      .next { s with
        words := overwrite s.words ((List.range (s.digitCount / 4)).map (parsedWord (digitAt s)))
        wcount := BitVec.ofNat 6 (s.digitCount / 4)
        done := true
        phase := .idle } := by
  rw [exec_dgFromdigits h4 hle, parseDigits_ok hgood]
  rfl

end

/-- An entry of WORDS after the first `n` were written. -/
theorem overwrite_map_range_getD (words : Vector WordIndex 32) (f : Nat → WordIndex) (n : Nat) {i : Nat}
    (hi : i < 32) :
    (overwrite words ((List.range n).map f)).getD i 0 = if i < n then f i else words.getD i 0 := by
  rw [overwrite_getD _ _ _ _ hi, List.length_map, List.length_range]
  refine ite_congr rfl (fun hn => ?_) fun _ => rfl
  simp [List.getD, hn]

/-- Settles O50: the DCOUNT check, then the first word that is not good, decides the report; a string of good words
is written whole. -/
theorem dgFromdigitsParsesOrReports : Obligations.DgFromdigitsParsesOrReports := by
  refine ⟨dgFromdigits_encodesAs, fun s => ⟨dgFromdigits_refusesCount, fun h4 hle => ⟨?_, ?_, fun hgood => ?_⟩⟩⟩
  · exact fun i hi hbefore hbad => dgFromdigits_reports h4 hle hi hbefore (parseDigits_badChar hbad)
  · exact fun i hi hbefore hdigits hbig =>
      dgFromdigits_reports h4 hle hi hbefore (parseDigits_tooLarge hdigits hbig)
  · refine ⟨_, dgFromdigits_writes h4 hle hgood, ?_, fun i hi => ?_, fun i hi hge => ?_, rfl⟩
    · exact Nat.mod_eq_of_lt (show s.dcount.toNat / 4 < 64 by omega)
    · rw [wordAt, overwrite_map_range_getD _ _ _ (by omega), State.digitCount, if_pos hi]
      exact parsedWord_toNat (hgood i hi).2
    · rw [wordAt, overwrite_map_range_getD _ _ _ hi, State.digitCount, if_neg hge.not_gt]

end Sys2Proof.Machine
end

section
/-! PROOFS. The command ZEROIZE (48_control.md R186). -/

namespace Sys2Proof.Machine

open Sys2Proof.Claims

theorem decode_zeroize (f1 f2 f3 : Byte) :
    decode (commandWord 0x7F f1 f2 f3) = withUnusedZero 0x7F [f1, f2, f3] .zeroize := by
  simp [decode]

theorem zeroize_encodesAs : EncodesAs 0x7F 0xFF 0xFF 0xFF (fun _ _ _ => .zeroize) := by
  intro f1 f2 f3
  simp only [and_fullMask]
  exact (decode_zeroize f1 f2 f3).trans (withUnusedZero_triple 0x7F f1 f2 f3 .zeroize)

theorem exec_zeroize (s : State) : exec .zeroize s = .next s.zeroized.succeed := rfl

/-- Completion leaves the phase at its reset value, so DONE alone separates the result from `zeroized`. -/
theorem State.zeroized_succeed (s : State) : s.zeroized.succeed = { s.zeroized with done := true } := rfl

/-- Settles O25: the word has all three fields unused, and the command completes the zeroized state. -/
theorem zeroizeAppliesResetValues : Obligations.ZeroizeAppliesResetValues :=
  ⟨zeroize_encodesAs, fun s => (exec_zeroize s).trans (congrArg Host.Outcome.next s.zeroized_succeed)⟩

end Sys2Proof.Machine
end

section
/-! PROOFS. Completion with an error, and the interrupt output (60_exceptions.md R190 to R194). -/

namespace Sys2Proof.Machine

open Sys2Proof.Claims

/-! ### The two ways a command completes -/

/-- A command commits the writes of an orderly result, or leaves its report alone (R190, R191). -/
theorem exec_next_cases {i : Instr} {s t : State} (h : exec i s = .next t) :
    (∃ u, OrderlyResult s (.ok u) ∧ t = u.succeed) ∨ ∃ r, t = s.report r := by
  obtain ⟨r, hr, horderly⟩ := exec_finishes i s
  have ht : t = s.complete r := (Host.Outcome.next.inj (hr.symm.trans h)).symm
  cases r with
  | ok u => exact .inl ⟨u, horderly, ht⟩
  | error e => exact .inr ⟨e, ht⟩

theorem exec_done {i : Instr} {s t : State} (h : exec i s = .next t) : t.done = true := by
  obtain ⟨u, _, rfl⟩ | ⟨r, rfl⟩ := exec_next_cases h
  · exact u.succeed_done
  · exact s.report_done r

theorem exec_ie {i : Instr} {s t : State} (h : exec i s = .next t) : t.ie = s.ie := by
  obtain ⟨u, ⟨hcontrol, _⟩, rfl⟩ | ⟨r, rfl⟩ := exec_next_cases h
  · exact hcontrol.ie
  · exact s.report_ie r

/-! ### Errors -/

/-- No rule's writes set ERR: only the completion of an error does (R190). -/
theorem KeepsReport.err_eq_false {s t : State} (h : KeepsReport s t) (hclear : s.err = false) : t.err = false := by
  obtain ⟨herr, _⟩ | ⟨herr, _⟩ := h
  · exact herr.trans hclear
  · exact herr

/-- From a clear ERR, a command that leaves ERR set has raised an error, and its report is all it did. -/
theorem exec_eq_report_of_err {i : Instr} {s t : State} (hclear : s.err = false) (h : exec i s = .next t)
    (herr : t.err = true) : ∃ r, t = s.report r := by
  obtain ⟨u, ⟨_, hreport⟩, rfl⟩ | hr := exec_next_cases h
  · have hu : u.err = true := herr
    rw [hreport.err_eq_false hclear] at hu
    cases hu
  · exact hr

/-- Settles O21: a command that leaves ERR set has completed by `report`, whose update the statement writes out. -/
theorem errorChangesNothingButTheReport : Obligations.ErrorChangesNothingButTheReport := by
  intro i s t hclear h herr
  obtain ⟨r, rfl⟩ := exec_eq_report_of_err hclear h herr
  rfl

/-! ### The interrupt output -/

theorem State.irq_iff (s : State) : s.irq = true ↔ s.ie = true ∧ s.done = true := Bool.and_eq_true_iff

theorem exec_irq_iff {i : Instr} {s t : State} (h : exec i s = .next t) : t.irq = true ↔ s.ie = true := by
  rw [State.irq_iff, exec_ie h, and_iff_left (exec_done h)]

theorem State.issue_irq (s : State) (w : Word) : (s.issue w).irq = false := Bool.and_false s.ie

theorem State.writeStatus_irq_of_ack (s : State) {v : Word} (hack : v.getLsbD 1 = true) :
    (s.writeStatus v).irq = false := by
  simp [State.irq, clearIfOne, hack]

/-- Settles O20: each event acts on IRQ through the one of CTRL.IE and DONE that it writes. -/
theorem irqIsEnabledCompletion : Obligations.IrqIsEnabledCompletion := by
  refine ⟨State.irq_iff, fun i s t => exec_irq_iff, fun s w hidle => ?_, fun s v hidle hack => ?_,
    fun s v hidle => ?_⟩ <;> rw [State.hostWrite_idle _ _ hidle]
  · exact s.issue_irq w
  · exact s.writeStatus_irq_of_ack hack
  · rfl

end Sys2Proof.Machine
end

section
/-! PROOFS. The values of reset (70_reset_and_hazards.md R205). -/

namespace Sys2Proof.Machine

open Sys2Proof.Claims

/-! ### Buffers of one value -/

/-- A buffer filled with `a` reads `a` everywhere, past its end too when `a` is also the default. -/
theorem vector_replicate_getD {α : Type} (n : Nat) (a : α) (k : Nat) : (Vector.replicate n a).getD k a = a := by
  by_cases h : k < n <;> simp [Vector.getD, h]

theorem packAt_zeros (n m : Nat) : packAt (Vector.replicate n 0) m = 0 := by
  simp only [packAt, vector_replicate_getD]
  rfl

/-! ### What reset leaves in the buffers -/

theorem reset_coefRow (k : Nat) : State.reset.coefRow k = Vector.replicate 32 0 := by
  cases k with
  | zero => rfl
  | succ k => exact vector_replicate_getD 15 (Vector.replicate 32 0) k

theorem reset_coefByte (k j : Nat) : State.reset.coefByte k j = 0 := by
  rw [State.coefByte, reset_coefRow, vector_replicate_getD]

theorem reset_pointRow (k : Nat) : State.reset.pointRow k = Vector.replicate 32 0 :=
  vector_replicate_getD 16 (Vector.replicate 32 0) k

theorem reset_pyAt (k j : Nat) : pyAt State.reset k j = 0 := by
  rw [pyAt, reset_pointRow, vector_replicate_getD]

/-! ### The share fields of reset -/

/-- SS.ENCODE checks GC right after LEN (R157). -/
theorem ssEncode_refusesGroupCount {s : State} (hlen : s.byteLen ∈ Config.mnLens)
    (hgc : s.shf.gc.toNat < 1 ∨ 16 < s.shf.gc.toNat) : RefusesParam .ssEncode s 0x23 :=
  congrArg (finish s) ((if_neg (not_not_intro hlen)).trans (if_pos hgc))

theorem ssEncode_refusesResetFields {s : State} (hshf : s.shf = State.reset.shf) (hlen : s.byteLen ∈ Config.mnLens) :
    RefusesParam .ssEncode s 0x23 :=
  ssEncode_refusesGroupCount hlen (.inl (hshf ▸ Nat.zero_lt_one))

/-- Settles O1: registers and fields are read off `State.reset`, buffers are filled with 0, and GC = 0 fails
SS.ENCODE's check. -/
theorem resetLeavesTheSpecValues : Obligations.ResetLeavesTheSpecValues := by
  refine ⟨rfl, rfl, rfl, rfl, rfl, rfl, rfl, rfl, rfl, rfl, rfl, rfl, rfl, rfl, rfl, rfl, rfl, rfl, rfl, rfl, ?wt0,
    ?wt1, rfl, ?wt, ?secret, ?words, ?digits, ?coef, ?px, ?py, rfl, fun s => ssEncode_refusesResetFields⟩
  case wt0 => exact packAt_zeros 8 0
  case wt1 => exact packAt_zeros 8 1
  case wt => exact fun k _ => vector_replicate_getD 8 0 k
  case secret => exact fun j _ => vector_replicate_getD 32 0 j
  case words => exact fun i _ => vector_replicate_getD 32 0 i
  case digits => exact fun j _ => vector_replicate_getD 128 0 j
  case coef => exact fun k _ j _ => reset_coefByte k j
  case px => exact fun k _ => vector_replicate_getD 16 0 k
  case py => exact fun k _ j _ => reset_pyAt k j

end Sys2Proof.Machine
end

section
/-! PROOFS. The decoder and the encoder against the opcode table (30_encoding.md R86 to R93, R100). -/

namespace Sys2Proof.Machine

open Sys2Proof.Claims

/-! ### Command words that no earlier command's proof needed -/

theorem decode_shGencoef (t f2 f3 : Byte) :
    decode (commandWord 0x11 t f2 f3) = withUnusedZero 0x11 [f2, f3] (.shGencoef t) := by
  simp [decode]

theorem decode_shSplit (t n f3 : Byte) :
    decode (commandWord 0x12 t n f3) = withUnusedZero 0x12 [f3] (.shSplit t n) := by
  simp [decode]

theorem decode_wlIndex (f1 f2 slot : Byte) :
    decode (commandWord 0x38 f1 f2 slot) = withUnusedZero 0x38 [f1, f2] (.wlIndex slot) := by
  simp [decode]

theorem decode_ssEncode (f1 f2 f3 : Byte) :
    decode (commandWord 0x50 f1 f2 f3) = withUnusedZero 0x50 [f1, f2, f3] .ssEncode := by
  simp [decode]

theorem decode_ssDecode (push f2 f3 : Byte) :
    decode (commandWord 0x51 push f2 f3) =
      withUnusedZero 0x51 [push &&& pushReservedBits, f2, f3] (.ssDecode push) := by
  simp [decode]

theorem decode_ssRecover (f1 f2 f3 : Byte) :
    decode (commandWord 0x53 f1 f2 f3) = withUnusedZero 0x53 [f1, f2, f3] .ssRecover := by
  simp [decode]

theorem decode_ssGenid (f1 f2 f3 : Byte) :
    decode (commandWord 0x54 f1 f2 f3) = withUnusedZero 0x54 [f1, f2, f3] .ssGenid := by
  simp [decode]

theorem shGencoef_encodesAs : EncodesAs 0x11 0x00 0xFF 0xFF (fun t _ _ => .shGencoef t) := by
  intro f1 f2 f3
  simp only [and_fullMask, and_emptyMask, true_and]
  exact (decode_shGencoef f1 f2 f3).trans (withUnusedZero_pair 0x11 f2 f3 (.shGencoef f1))

theorem shSplit_encodesAs : EncodesAs 0x12 0x00 0x00 0xFF (fun t n _ => .shSplit t n) := by
  intro f1 f2 f3
  simp only [and_fullMask, and_emptyMask, true_and]
  exact (decode_shSplit f1 f2 f3).trans (withUnusedZero_single 0x12 f3 (.shSplit f1 f2))

theorem wlIndex_encodesAs : EncodesAs 0x38 0xFF 0xFF 0x00 (fun _ _ slot => .wlIndex slot) := by
  intro f1 f2 f3
  simp only [and_fullMask, and_emptyMask, and_true]
  exact (decode_wlIndex f1 f2 f3).trans (withUnusedZero_pair 0x38 f1 f2 (.wlIndex f3))

theorem ssEncode_encodesAs : EncodesAs 0x50 0xFF 0xFF 0xFF (fun _ _ _ => .ssEncode) := by
  intro f1 f2 f3
  simp only [and_fullMask]
  exact (decode_ssEncode f1 f2 f3).trans (withUnusedZero_triple 0x50 f1 f2 f3 .ssEncode)

theorem ssDecode_encodesAs : EncodesAs 0x51 0xFE 0xFF 0xFF (fun p _ _ => .ssDecode p) := by
  intro f1 f2 f3
  simp only [and_fullMask]
  exact (decode_ssDecode f1 f2 f3).trans
    (withUnusedZero_triple 0x51 (f1 &&& pushReservedBits) f2 f3 (.ssDecode f1))

theorem ssRecover_encodesAs : EncodesAs 0x53 0xFF 0xFF 0xFF (fun _ _ _ => .ssRecover) := by
  intro f1 f2 f3
  simp only [and_fullMask]
  exact (decode_ssRecover f1 f2 f3).trans (withUnusedZero_triple 0x53 f1 f2 f3 .ssRecover)

theorem ssGenid_encodesAs : EncodesAs 0x54 0xFF 0xFF 0xFF (fun _ _ _ => .ssGenid) := by
  intro f1 f2 f3
  simp only [and_fullMask]
  exact (decode_ssGenid f1 f2 f3).trans (withUnusedZero_triple 0x54 f1 f2 f3 .ssGenid)

/-! ### A word and its fields -/

theorem commandWord_fields (w : Word) : commandWord (opField w) (f1Field w) (f2Field w) (f3Field w) = w :=
  packBytes_byteOf w

theorem word_eq_iff_fields {v w : Word} :
    v = w ↔ opField v = opField w ∧ f1Field v = f1Field w ∧ f2Field v = f2Field w ∧ f3Field v = f3Field w := by
  constructor
  · rintro rfl
    exact ⟨rfl, rfl, rfl, rfl⟩
  · rintro ⟨hop, h1, h2, h3⟩
    rw [← commandWord_fields v, ← commandWord_fields w, hop, h1, h2, h3]

/-! ### The decoder, by opcode -/

/-- The command that R90 gives the opcode `n`, with the fields of its word. -/
def commandOf (n : Nat) (f1 f2 f3 : Byte) : Instr :=
  match n with
  | 0x01 => .gfAdd f1 f2
  | 0x02 => .gfMul f1 f2
  | 0x03 => .gfInv f1
  | 0x10 => .shEval f1 f2 f3
  | 0x11 => .shGencoef f1
  | 0x12 => .shSplit f1 f2
  | 0x13 => .shInterp f1
  | 0x14 => .shLoadpt f3
  | 0x15 => .shStorept f2 f3
  | 0x20 => .ckCompute
  | 0x21 => .ckVerify f1
  | 0x30 => .mnEncode
  | 0x31 => .mnDecode
  | 0x38 => .wlIndex f3
  | 0x39 => .wlWord f3
  | 0x40 => .dgTodigits
  | 0x41 => .dgFromdigits
  | 0x50 => .ssEncode
  | 0x51 => .ssDecode f1
  | 0x52 => .ssClear
  | 0x53 => .ssRecover
  | 0x54 => .ssGenid
  | 0x7F => .zeroize
  | _ => .nop

/-- Every opcode of the table decodes as its command (R90, R91). -/
theorem encodesAs_commandOf {op m1 m2 m3 : Byte} (h : mustBeZero op.toNat = some (m1, m2, m3)) :
    EncodesAs op m1 m2 m3 (commandOf op.toNat) := by
  have hop : op = BitVec.ofNat 8 op.toNat := (BitVec.ofNat_toNat 8 op).symm ▸ (BitVec.setWidth_eq op).symm
  generalize op.toNat = n at h hop
  subst hop
  unfold mustBeZero at h
  split at h <;> cases h
  · exact nop_encodesAs
  · exact gfAdd_encodesAs
  · exact gfMul_encodesAs
  · exact gfInv_encodesAs
  · exact shEval_encodesAs
  · exact shGencoef_encodesAs
  · exact shSplit_encodesAs
  · exact shInterp_encodesAs
  · exact shLoadpt_encodesAs
  · exact shStorept_encodesAs
  · exact ckCompute_encodesAs
  · exact ckVerify_encodesAs
  · exact mnEncode_encodesAs
  · exact mnDecode_encodesAs
  · exact wlIndex_encodesAs
  · exact wlWord_encodesAs
  · exact dgTodigits_encodesAs
  · exact dgFromdigits_encodesAs
  · exact ssEncode_encodesAs
  · exact ssDecode_encodesAs
  · exact ssClear_encodesAs
  · exact ssRecover_encodesAs
  · exact ssGenid_encodesAs
  · exact zeroize_encodesAs

theorem decode_commandWord_of_none {op : Byte} (h : mustBeZero op.toNat = none) (f1 f2 f3 : Byte) :
    decode (commandWord op f1 f2 f3) = .error (.reservedOpcode op) := by
  unfold mustBeZero at h
  split at h
  case h_25 =>
    simp only [decode, opField_commandWord]
  all_goals cases h

/-- A word is a command of the table's row, an illegal word of that row, or a word of no row (R93). -/
theorem decode_eq_ok_iff {w : Word} {i : Instr} :
    decode w = .ok i ↔ ∃ m1 m2 m3, mustBeZero (opField w).toNat = some (m1, m2, m3) ∧
      (f1Field w &&& m1 = 0 ∧ f2Field w &&& m2 = 0 ∧ f3Field w &&& m3 = 0) ∧
      commandOf (opField w).toNat (f1Field w) (f2Field w) (f3Field w) = i := by
  rw [← commandWord_fields w]
  simp only [opField_commandWord, f1Field_commandWord, f2Field_commandWord, f3Field_commandWord]
  generalize opField w = op, f1Field w = f1, f2Field w = f2, f3Field w = f3
  cases h : mustBeZero op.toNat with
  | none => simp [decode_commandWord_of_none h]
  | some m =>
    obtain ⟨m1, m2, m3⟩ := m
    have hdecode : decode (commandWord op f1 f2 f3) = _ := encodesAs_commandOf h f1 f2 f3
    rw [hdecode]
    constructor
    · intro hok
      split at hok
      · exact ⟨m1, m2, m3, rfl, ‹_›, Except.ok.inj hok⟩
      · cases hok
    · rintro ⟨_, _, _, ⟨⟩, hzero, rfl⟩
      exact if_pos hzero

/-! ### Decoding and encoding invert each other -/

/-- Settles O6: command by command, the opcode selects the row and the fields are read back. -/
theorem decodeOfEncodeIsIdentity : Obligations.DecodeOfEncodeIsIdentity := by
  intro i
  cases i with
  | nop => exact Laws.RoundTrip.nop
  | gfAdd a b => exact Laws.RoundTrip.gfAdd a b
  | gfMul a b => exact Laws.RoundTrip.gfMul a b
  | gfInv a => exact Laws.RoundTrip.gfInv a
  | shEval t x slot => exact Laws.RoundTrip.shEval t x slot
  | shGencoef t => exact Laws.RoundTrip.shGencoef t
  | shSplit t n => exact Laws.RoundTrip.shSplit t n
  | shInterp t => exact Laws.RoundTrip.shInterp t
  | shLoadpt slot => exact Laws.RoundTrip.shLoadpt slot
  | shStorept x slot => exact Laws.RoundTrip.shStorept x slot
  | ckCompute => exact Laws.RoundTrip.ckCompute
  | ckVerify c => exact Laws.RoundTrip.ckVerify c
  | mnEncode => exact Laws.RoundTrip.mnEncode
  | mnDecode => exact Laws.RoundTrip.mnDecode
  | wlIndex slot => exact Laws.RoundTrip.wlIndex slot
  | wlWord slot => exact Laws.RoundTrip.wlWord slot
  | dgTodigits => exact Laws.RoundTrip.dgTodigits
  | dgFromdigits => exact Laws.RoundTrip.dgFromdigits
  | ssEncode => exact Laws.RoundTrip.ssEncode
  | ssDecode push => exact Laws.RoundTrip.ssDecode push
  | ssClear => exact Laws.RoundTrip.ssClear
  | ssRecover => exact Laws.RoundTrip.ssRecover
  | ssGenid => exact Laws.RoundTrip.ssGenid
  | zeroize => exact Laws.RoundTrip.zeroize

/-- A command whose unused bits are 0 is well-formed, and its encoding has its opcode and fields. -/
theorem encode_commandOf {op f1 f2 f3 m1 m2 m3 : Byte} (h : mustBeZero op.toNat = some (m1, m2, m3))
    (hzero : f1 &&& m1 = 0 ∧ f2 &&& m2 = 0 ∧ f3 &&& m3 = 0) :
    (commandOf op.toNat f1 f2 f3).wellFormed = true ∧
      encode (commandOf op.toNat f1 f2 f3) = commandWord op f1 f2 f3 := by
  have hop : op = BitVec.ofNat 8 op.toNat := (BitVec.ofNat_toNat 8 op).symm ▸ (BitVec.setWidth_eq op).symm
  generalize op.toNat = n at h hop
  subst hop
  unfold mustBeZero at h
  split at h <;> cases h
  case h_20.refl =>
    obtain ⟨hpush, rfl, rfl⟩ : f1 &&& 0xFE = 0 ∧ f2 = 0 ∧ f3 = 0 := by simpa only [and_fullMask] using hzero
    exact ⟨beq_iff_eq.2 hpush, rfl⟩
  all_goals
    simp only [and_fullMask, and_emptyMask, true_and, and_true] at hzero
    simp [commandOf, Instr.wellFormed, encode, hzero]

/-- Settles O7: the decoder reads the command of the word's opcode and fields, and the fields it drops are 0. -/
theorem encodeOfDecodeIsIdentity : Obligations.EncodeOfDecodeIsIdentity := by
  intro w i h
  obtain ⟨m1, m2, m3, hop, hzero, rfl⟩ := decode_eq_ok_iff.1 h
  obtain ⟨hwf, henc⟩ := encode_commandOf hop hzero
  exact ⟨hwf, henc.trans (commandWord_fields w)⟩

/-! ### The rows of opcode_table.json -/

/-- A row of the table pins OP whole, and asks for the zero bits of R91 (R90). -/
theorem opcodeTable_fields : ∀ row ∈ opcodeTable,
    opField row.mask = 0xFF ∧ f1Field row.pattern = 0 ∧ f2Field row.pattern = 0 ∧ f3Field row.pattern = 0 ∧
      mustBeZero (opField row.pattern).toNat = some (f1Field row.mask, f2Field row.mask, f3Field row.mask) := by
  decide

theorem commandOf_mnemonic (n : Nat) (f1 f2 f3 : Byte) :
    (commandOf n f1 f2 f3).mnemonic = (commandOf n 0 0 0).mnemonic := by
  unfold commandOf
  split <;> rfl

/-- Every opcode of the decoder has its row, which names its command. -/
theorem exists_row_of_mustBeZero {op m1 m2 m3 : Byte} (h : mustBeZero op.toNat = some (m1, m2, m3)) (f1 f2 f3 : Byte) :
    ∃ row ∈ opcodeTable, opField row.pattern = op ∧ row.mnemonic = (commandOf op.toNat f1 f2 f3).mnemonic := by
  have hop : op = BitVec.ofNat 8 op.toNat := (BitVec.ofNat_toNat 8 op).symm ▸ (BitVec.setWidth_eq op).symm
  rw [commandOf_mnemonic]
  generalize op.toNat = n at h hop
  subst hop
  unfold mustBeZero at h
  split at h <;> cases h <;> decide

/-- No two rows have the same opcode. -/
theorem opcodeTable_opcode_inj : ∀ row ∈ opcodeTable, ∀ row' ∈ opcodeTable,
    opField row.pattern = opField row'.pattern → row = row' := by
  decide

/-- A word matches a row when it has the row's opcode and the bits that must be 0 are 0. -/
theorem matches_row_iff {row : OpcodeRow} (h : row ∈ opcodeTable) (w : Word) :
    w &&& row.mask = row.pattern ↔ opField w = opField row.pattern ∧ f1Field w &&& f1Field row.mask = 0 ∧
      f2Field w &&& f2Field row.mask = 0 ∧ f3Field w &&& f3Field row.mask = 0 := by
  obtain ⟨hop, h1, h2, h3, -⟩ := opcodeTable_fields row h
  have hand : opField (w &&& row.mask) = opField w := by
    rw [opField, BitVec.extractLsb'_and, ← opField, ← opField, hop, and_fullMask]
  rw [word_eq_iff_fields, hand, h1, h2, h3]
  simp only [f1Field, f2Field, f3Field, BitVec.extractLsb'_and]

/-- A word is a command exactly when it matches the row of its opcode, which names the command. -/
theorem decode_ok_of_matches {row : OpcodeRow} (h : row ∈ opcodeTable) {w : Word} (hw : w &&& row.mask = row.pattern) :
    decode w = .ok (commandOf (opField w).toNat (f1Field w) (f2Field w) (f3Field w)) := by
  obtain ⟨hop, hzero⟩ := (matches_row_iff h w).1 hw
  obtain ⟨-, -, -, -, hmust⟩ := opcodeTable_fields row h
  exact decode_eq_ok_iff.2 ⟨_, _, _, hop ▸ hmust, hzero, rfl⟩

theorem matches_of_decode_ok {w : Word} {i : Instr} (h : decode w = .ok i) :
    ∃ row ∈ opcodeTable, w &&& row.mask = row.pattern ∧ row.mnemonic = i.mnemonic := by
  obtain ⟨m1, m2, m3, hop, hzero, rfl⟩ := decode_eq_ok_iff.1 h
  obtain ⟨row, hrow, hpattern, hname⟩ := exists_row_of_mustBeZero hop (f1Field w) (f2Field w) (f3Field w)
  obtain ⟨-, -, -, -, hmust⟩ := opcodeTable_fields row hrow
  rw [hpattern, hop] at hmust
  cases hmust
  exact ⟨row, hrow, (matches_row_iff hrow w).2 ⟨hpattern.symm, hzero⟩, hname⟩

/-- Settles O5: the rows pin the opcode and the zero bits that the decoder checks, one row per opcode. -/
theorem everyWordIsOneCommandOrIllegal : Obligations.EveryWordIsOneCommandOrIllegal := by
  refine fun w => ⟨⟨fun ⟨i, hi⟩ => ?_, fun ⟨row, hrow, hw⟩ => ⟨_, decode_ok_of_matches hrow hw⟩⟩, fun i hi => ?_⟩
  · obtain ⟨row, hrow, hw, -⟩ := matches_of_decode_ok hi
    exact ⟨row, hrow, hw⟩
  · obtain ⟨row, hrow, hw, hname⟩ := matches_of_decode_ok hi
    refine ⟨row, hrow, hw, hname, fun row' hrow' hw' => opcodeTable_opcode_inj row' hrow' row hrow ?_⟩
    rw [← ((matches_row_iff hrow w).1 hw).1, ((matches_row_iff hrow' w).1 hw').1]

/-- Settles O8: fixed words, decoded. -/
theorem sampleWordsDecode : Obligations.SampleWordsDecode := by
  unfold Obligations.SampleWordsDecode
  decide

end Sys2Proof.Machine
end

section
/-! PROOFS. One step, by the move it takes (30_encoding.md R91 to R95; 60_exceptions.md R195, R202;
70_reset_and_hazards.md R206). -/

namespace Sys2Proof.Machine

open Sys2Proof.Claims

/-! ### The unit's move -/

theorem stepUnit_idle {s : State} (h : s.phase = .idle) : stepUnit s = .next s := by
  simpa [h] using stepUnit_cases s

theorem stepUnit_busy {s : State} {w : Word} (h : s.phase = .busy w) : stepUnit s = runWord w s := by
  simpa [h] using stepUnit_cases s

theorem runWord_command {w : Word} {i : Instr} (h : decode w = .ok i) (s : State) : runWord w s = exec i s := by
  rw [runWord, h]

theorem runWord_illegal {w : Word} {r : DecodeReject} (h : decode w = .error r) (s : State) :
    runWord w s = .next (s.completeIllegal r) := by
  rw [runWord, h]

/-- Where the unit moves next, the step is its move, in the phase it was in. -/
theorem step_of_unitMoves {s s0 : State} (h : UnitMoves s s0) : step s = stepUnit s0 ∧ s0.phase = s.phase := by
  obtain ⟨hnil, rfl⟩ | ⟨rest, hcons, rfl⟩ := h
  · exact ⟨step_events_nil hnil, rfl⟩
  · exact ⟨step_events_cons hcons, rfl⟩

theorem step_unitMoves_busy {s s0 : State} {w : Word} (hbusy : s.phase = .busy w) (h : UnitMoves s s0) :
    step s = runWord w s0 := by
  obtain ⟨hstep, hphase⟩ := step_of_unitMoves h
  exact hstep.trans (stepUnit_busy (hphase.trans hbusy))

/-- A word just issued is the pending one, and the moves before the issue are again the coming ones. -/
theorem step_withFetchWord (s : State) (w : Word) : step (s.withFetchWord 32 w.toNat) = runWord w (s.issue w) := by
  have hw : BitVec.ofNat 32 (w.toNat % 2 ^ 32) = w := by
    rw [Nat.mod_eq_of_lt w.isLt, BitVec.ofNat_toNat, BitVec.setWidth_eq]
  rw [State.withFetchWord, hw]
  rfl

/-- Settles O3: the unit's move runs the pending word, which decodes to the command; idle it does nothing. -/
theorem stepRunsThePendingCommand : Obligations.StepRunsThePendingCommand := by
  refine ⟨fun s s0 w i hmove hbusy hdecode => ?_, fun s s0 hmove hidle => ?_, fun s i hwf => ?_⟩
  · exact (step_unitMoves_busy hbusy hmove).trans (runWord_command hdecode s0)
  · obtain ⟨hstep, hphase⟩ := step_of_unitMoves hmove
    exact hstep.trans (stepUnit_idle (hphase.trans hidle))
  · exact (step_withFetchWord s (encode i)).trans (runWord_command (decodeOfEncodeIsIdentity i hwf) _)

/-! ### Illegal words -/

theorem completeIllegal_eq (s : State) (r : DecodeReject) : s.completeIllegal r = illegalDone s r.op := by
  rw [illegalDone, ← BitVec.ofNat_toNat]
  rfl

theorem mustBeZero_of_reservedOp {n : Nat} (h : reservedOp n) : mustBeZero n = none := by
  unfold reservedOp at h
  unfold mustBeZero
  split
  case h_25 => rfl
  all_goals omega

/-- Settles O4: an opcode of the table with a bit set that must be 0, and an opcode outside the table, are the
decoder's two rejections, and either completes by the report alone. -/
theorem illegalWordsAreReported : Obligations.IllegalWordsAreReported := by
  refine ⟨fun op f1 f2 f3 m1 m2 m3 s s0 hop hset hbusy hmove => ?_, fun w s s0 hop hbusy hmove => ?_⟩
  all_goals rw [step_unitMoves_busy hbusy hmove]
  · have hdecode := (encodesAs_commandOf hop f1 f2 f3).trans (if_neg (by tauto))
    rw [runWord_illegal hdecode, completeIllegal_eq]
    rfl
  · have hdecode := decode_commandWord_of_none (mustBeZero_of_reservedOp hop) (f1Field w) (f2Field w) (f3Field w)
    rw [← opField, commandWord_fields] at hdecode
    rw [runWord_illegal hdecode, completeIllegal_eq]
    rfl

/-! ### The host's move -/

/-- R71's two conditions, as the bus tests them. -/
theorem accepted_iff_aligned32 (a : Access) : a.accepted = true ↔ aligned32 a := by
  cases a <;> simp [Access.accepted, aligned32]

theorem step_access {s : State} {a : Access} {rest : List Event} (h : s.env.events = .access a :: rest)
    (ha : aligned32 a) :
    step s = .next ((s.withEvents rest).serve a) :=
  (step_events_cons h).trans (if_pos ((accepted_iff_aligned32 a).2 ha))

theorem step_access_refused {s : State} {a : Access} {rest : List Event} (h : s.env.events = .access a :: rest)
    (ha : ¬ aligned32 a) :
    step s = .refused .unacceptedAccess :=
  (step_events_cons h).trans (if_neg (mt (accepted_iff_aligned32 a).1 ha))

/-- Settles O11: of the three kinds of move only an access can be refused, by its alignment and width. -/
theorem stepStopsOnlyOnUnacceptedAccess : Obligations.StepStopsOnlyOnUnacceptedAccess := by
  refine fun s => ⟨fun a rest => step_access_refused, fun haligned => ?_⟩
  cases hevents : s.env.events with
  | nil => exact step_events_nil hevents ▸ stepUnit_next s
  | cons e rest =>
    cases e with
    | access a => exact ⟨_, step_access hevents (haligned a rest hevents)⟩
    | unit => exact step_events_cons hevents ▸ stepUnit_next _
    | reset o => exact ⟨_, step_events_cons hevents⟩

/-- Settles O12: an idle write at CMD's offset is the issue of R94. -/
theorem cmdWriteIssuesTheCommand : Obligations.CmdWriteIssuesTheCommand := by
  intro s w rest hidle hevents
  rw [step_access hevents ⟨rfl, rfl⟩]
  exact congrArg Host.Outcome.next (State.hostWrite_idle (s := s.withEvents rest) 0x004 w hidle)

/-- Settles O19: an idle write at STATUS's offset ands the three W1C bits with the written bits' complements. -/
theorem statusWriteClearsWrittenBits : Obligations.StatusWriteClearsWrittenBits := by
  intro s v rest hidle hevents
  have hclear : ∀ old written : Bool, clearIfOne old written = if written then false else old := by decide
  rw [step_access hevents ⟨rfl, rfl⟩, ← hclear, ← hclear, ← hclear]
  exact congrArg Host.Outcome.next (State.hostWrite_idle (s := s.withEvents rest) 0x008 v hidle)

/-- Settles O13: a busy write sets OVR whatever its offset. -/
theorem writeWhileBusyIsDropped : Obligations.WriteWhileBusyIsDropped := by
  intro s w off v rest hbusy halign hevents
  rw [step_access hevents ⟨rfl, halign⟩]
  exact congrArg Host.Outcome.next (State.hostWrite_busy (s := s.withEvents rest) off.toNat v hbusy)

/-! ### The reset input -/

theorem step_reset {s : State} {o : Option Access} {rest : List Event} (h : s.env.events = .reset o :: rest) :
    step s = .next ((s.withEvents rest).resetInput o) := step_events_cons h

/-- Settles O2: reset replaces every field of the core by its reset value and keeps the environment, to which an
overlapping read adds one reply. -/
theorem resetInputAppliesResetValues : Obligations.ResetInputAppliesResetValues := by
  intro s o rest hevents
  rw [step_reset hevents]
  match o with
  | none => exact ⟨_, rfl, rfl, rfl, rfl, fun _ => rfl⟩
  | some (.write _ _ _) => exact ⟨_, rfl, rfl, rfl, rfl, nofun⟩
  | some (.read _ _) => exact ⟨_, rfl, rfl, rfl, rfl, nofun⟩

end Sys2Proof.Machine
end

section
/-! PROOFS. What each command may write and which errors it may report (10_state.md sections 2 to 4; 60_exceptions.md
R188 to R191), and the run invariant. -/

namespace Sys2Proof.Machine

open Sys2Proof.Claims

/-! ### The writes and the errors of each command -/

/-- `s` with what the command `i` may write taken from `t`; ZEROIZE writes the reset values. -/
def written (i : Instr) (s t : State) : State :=
  match i with
  | .nop => s
  | .gfAdd _ _ => { s with result := t.result }
  | .gfMul _ _ => { s with result := t.result }
  | .gfInv _ => { s with result := t.result }
  | .shEval _ _ _ => { s with px := t.px, py := t.py }
  | .shGencoef _ => { s with coef := t.coef, env := t.env }
  | .shSplit _ _ => { s with coef := t.coef, px := t.px, py := t.py, npts := t.npts, env := t.env }
  | .shInterp _ => { s with secret := t.secret }
  | .shLoadpt _ => { s with secret := t.secret }
  | .shStorept _ _ => { s with px := t.px, py := t.py }
  | .ckCompute => { s with cksum := t.cksum }
  | .ckVerify _ => { s with result := t.result }
  | .mnEncode => { s with words := t.words, wcount := t.wcount }
  | .mnDecode => { s with secret := t.secret, len := t.len }
  | .wlIndex _ => { s with result := t.result, words := t.words }
  | .wlWord _ => { s with wt := t.wt }
  | .dgTodigits => { s with digits := t.digits, dcount := t.dcount }
  | .dgFromdigits => { s with words := t.words, wcount := t.wcount }
  | .ssEncode => { s with words := t.words, wcount := t.wcount }
  | .ssDecode _ => { s with shf := t.shf, secret := t.secret, len := t.len, store := t.store }
  | .ssClear => { s with store := t.store }
  | .ssRecover => { s with secret := t.secret, len := t.len }
  | .ssGenid => { s with shf := t.shf, env := t.env }
  | .zeroize => s.zeroized

/-- A rule's result keeps to the command's writes and errors. -/
def ResultOf (i : Instr) (s : State) : CmdResult → Prop
  | .ok t => t = written i s t
  | .error e => e.error.code ∈ raisedBy i

theorem resultOf_ite {i : Instr} {s : State} {c : Prop} [Decidable c] {a b : CmdResult} (ha : c → ResultOf i s a)
    (hb : ResultOf i s b) : ResultOf i s (if c then a else b) := by
  split
  · exact ha ‹_›
  · exact hb

theorem resultOf_raise {i : Instr} {s : State} {e : CommandError} {index group : Nat} (h : e.code ∈ raisedBy i) :
    ResultOf i s (raise e index group) := h

/-- A check of an operand in front of a command that may report `BadParameter`. -/
theorem resultOf_check {i : Instr} {s : State} {c : Prop} [Decidable c] {p : Param} {b : CmdResult}
    {codes : List (BitVec 8)} (h : raisedBy i = 0x81 :: codes) (hb : ResultOf i s b) :
    ResultOf i s (if c then badParameter p else b) :=
  resultOf_ite (fun _ => resultOf_raise (h.symm ▸ List.mem_cons_self)) hb

theorem resultOf_interpolate (t : Byte) (s : State) : ResultOf (.shInterp t) s (s.interpolate t.toNat) := by
  unfold State.interpolate
  split
  · exact resultOf_raise (.tail _ (.head _))
  · exact resultOf_ite (fun _ => resultOf_raise (.tail _ (.tail _ (.head _)))) rfl

theorem resultOf_indexWord (slot : Byte) (s : State) :
    ResultOf (.wlIndex slot) s (s.indexWord Config.wordList.word slot.toNat) := by
  refine resultOf_check rfl ?_
  split
  · exact rfl
  · exact resultOf_raise (.tail _ (.head _))

theorem mem_raisedBy_ssDecode {push : Byte} {c : BitVec 8} (h : c = 0x02 ∨ c = 0x07) :
    c ∈ raisedBy (.ssDecode push) := by
  simp only [raisedBy]
  split <;> obtain rfl | rfl := h <;> decide

theorem storeFull_mem_raisedBy_ssDecode {push : Byte} (h : push.getLsbD 0 = true) :
    0x82 ∈ raisedBy (.ssDecode push) := by
  rw [raisedBy, if_pos h]
  decide

/-- Every command is its rule's result, completed, and the result keeps to the command's writes and errors. -/
theorem exec_resultOf (i : Instr) (s : State) : ∃ r, exec i s = finish s r ∧ ResultOf i s r := by
  cases i with
  | nop => exact ⟨_, rfl, rfl⟩
  | gfAdd a b => exact ⟨_, rfl, rfl⟩
  | gfMul a b => exact ⟨_, rfl, rfl⟩
  | gfInv a => exact ⟨_, rfl, resultOf_ite (fun _ => resultOf_raise (.head _)) rfl⟩
  | shEval t x slot =>
    exact ⟨_, rfl, resultOf_check rfl <| resultOf_check rfl <| resultOf_check rfl <| resultOf_check rfl rfl⟩
  | shGencoef t =>
    exact ⟨_, rfl, resultOf_check rfl <| resultOf_check rfl rfl⟩
  | shSplit t n =>
    exact ⟨_, rfl, resultOf_check rfl <| resultOf_check rfl <| resultOf_check rfl rfl⟩
  | shInterp t =>
    exact ⟨_, rfl, resultOf_check rfl <| resultOf_check rfl <| resultOf_check rfl <| resultOf_interpolate t s⟩
  | shLoadpt slot =>
    exact ⟨_, rfl, resultOf_check rfl <| resultOf_check rfl rfl⟩
  | shStorept x slot =>
    exact ⟨_, rfl, resultOf_check rfl <| resultOf_check rfl rfl⟩
  | ckCompute => exact ⟨_, rfl, resultOf_check rfl rfl⟩
  | ckVerify c => exact ⟨_, rfl, resultOf_check rfl rfl⟩
  | mnEncode => exact ⟨_, rfl, resultOf_check rfl rfl⟩
  | mnDecode =>
    exact ⟨_, rfl, resultOf_ite (fun _ => resultOf_raise (.head _)) <|
      resultOf_ite (fun _ => resultOf_raise (.tail _ (.head _))) rfl⟩
  | wlIndex slot => exact ⟨_, rfl, resultOf_indexWord slot s⟩
  | wlWord slot => exact ⟨_, rfl, resultOf_check rfl rfl⟩
  | dgTodigits => exact ⟨_, rfl, resultOf_check rfl rfl⟩
  | dgFromdigits =>
    refine ⟨_, rfl, resultOf_ite (fun _ => resultOf_raise (.head _)) ?_⟩
    split
    · rename_i hparse
      rw [ResultOf, parseDigits_error hparse]
      decide
    · exact rfl
  | ssEncode =>
    exact ⟨_, rfl, resultOf_check rfl <| resultOf_check rfl <| resultOf_check rfl <|
      resultOf_check rfl <| resultOf_check rfl <| resultOf_check rfl rfl⟩
  | ssDecode push =>
    refine ⟨_, rfl, resultOf_ite (fun _ => resultOf_raise (mem_raisedBy_ssDecode (.inl rfl))) ?_⟩
    split
    · rename_i hshare
      rw [ResultOf, decodeShare_error hshare]
      exact mem_raisedBy_ssDecode (.inr rfl)
    · exact resultOf_ite (fun hpush => resultOf_ite
        (fun _ => resultOf_raise (storeFull_mem_raisedBy_ssDecode hpush)) rfl) rfl
  | ssClear => exact ⟨_, rfl, rfl⟩
  | ssRecover =>
    refine ⟨_, rfl, ?_⟩
    split
    · rename_i hrecover
      obtain h | h | h := recoverSecret_error hrecover <;> rw [ResultOf, h] <;> decide
    · exact rfl
  | ssGenid => exact ⟨_, rfl, rfl⟩
  | zeroize => exact ⟨_, rfl, rfl⟩

/-- What a command leaves: its own writes, or the report of one of its errors. -/
theorem exec_written_or_reported {i : Instr} {s t : State} (h : exec i s = .next t) :
    (∃ u, t = (written i s u).succeed) ∨ ∃ r : Report, r.error.code ∈ raisedBy i ∧ t = s.report r := by
  obtain ⟨r, hr, hresult⟩ := exec_resultOf i s
  have ht : t = s.complete r := (Host.Outcome.next.inj (hr.symm.trans h)).symm
  cases r with
  | ok u => exact .inl ⟨u, ht.trans (congrArg State.succeed hresult)⟩
  | error e => exact .inr ⟨e, hresult, ht⟩

/-! ### Errors -/

theorem written_err (i : Instr) (s u : State) : (written i s u).err = s.err ∨ (written i s u).err = false := by
  cases i with
  | zeroize => exact .inr rfl
  | _ => exact .inl rfl

/-- Settles O23: no command's writes set ERR, so a command that leaves it set has reported one of its errors. -/
theorem errorCodesByCommand : Obligations.ErrorCodesByCommand := by
  intro i s t hclear h herr
  obtain ⟨u, rfl⟩ | ⟨r, hr, rfl⟩ := exec_written_or_reported h
  · obtain hkept | hreset := written_err i s u
    · exact absurd (hkept.trans hclear) (ne_false_of_eq_true herr)
    · exact absurd hreset (ne_false_of_eq_true herr)
  · exact hr

/-- Settles O22: a command completes its result, which keeps the control state and the report. -/
theorem everyCommandCompletes : Obligations.EveryCommandCompletes := by
  intro i s
  obtain ⟨r, hr, horderly⟩ := exec_finishes i s
  cases r with
  | ok u =>
    obtain ⟨hcontrol, hreport⟩ := horderly
    refine ⟨u.succeed, hr, rfl, rfl, hcontrol.cmd, hcontrol.ie, hcontrol.ovr, hcontrol.events, hcontrol.replies,
      fun herr hcode hindex hgroup => .inr ?_⟩
    obtain ⟨h1, h2, h3, h4⟩ | hreset := hreport
    · exact ⟨h1.trans herr, h2.trans hcode, h3.trans hindex, h4.trans hgroup⟩
    · exact hreset
  | error e => exact ⟨s.report e, hr, rfl, rfl, rfl, rfl, rfl, rfl, rfl, fun _ _ _ _ => .inl ⟨rfl, code_ne_zero _⟩⟩

/-! ### What every other command leaves alone -/

section
variable {i : Instr} {s : State} (u : State)

theorem written_result (hz : i ≠ .zeroize) (hadd : ∀ a b, i ≠ .gfAdd a b) (hmul : ∀ a b, i ≠ .gfMul a b)
    (hinv : ∀ a, i ≠ .gfInv a) (hverify : ∀ c, i ≠ .ckVerify c) (hindex : ∀ k, i ≠ .wlIndex k) :
    (written i s u).result = s.result := by
  cases i with
  | gfAdd a b => exact absurd rfl (hadd a b)
  | gfMul a b => exact absurd rfl (hmul a b)
  | gfInv a => exact absurd rfl (hinv a)
  | ckVerify c => exact absurd rfl (hverify c)
  | wlIndex k => exact absurd rfl (hindex k)
  | zeroize => exact absurd rfl hz
  | _ => rfl

theorem written_len (hz : i ≠ .zeroize) (hmn : i ≠ .mnDecode) (hss : ∀ p, i ≠ .ssDecode p)
    (hrecover : i ≠ .ssRecover) : (written i s u).len = s.len := by
  cases i with
  | mnDecode => exact absurd rfl hmn
  | ssDecode p => exact absurd rfl (hss p)
  | ssRecover => exact absurd rfl hrecover
  | zeroize => exact absurd rfl hz
  | _ => rfl

theorem written_wcount (hz : i ≠ .zeroize) (hmn : i ≠ .mnEncode) (hss : i ≠ .ssEncode) (hdg : i ≠ .dgFromdigits) :
    (written i s u).wcount = s.wcount := by
  cases i with
  | mnEncode => exact absurd rfl hmn
  | ssEncode => exact absurd rfl hss
  | dgFromdigits => exact absurd rfl hdg
  | zeroize => exact absurd rfl hz
  | _ => rfl

theorem written_digits (hz : i ≠ .zeroize) (hdg : i ≠ .dgTodigits) :
    (written i s u).dcount = s.dcount ∧ (written i s u).digits = s.digits := by
  cases i with
  | dgTodigits => exact absurd rfl hdg
  | zeroize => exact absurd rfl hz
  | _ => exact ⟨rfl, rfl⟩

theorem written_npts (hz : i ≠ .zeroize) (hsplit : ∀ a n, i ≠ .shSplit a n) : (written i s u).npts = s.npts := by
  cases i with
  | shSplit a n => exact absurd rfl (hsplit a n)
  | zeroize => exact absurd rfl hz
  | _ => rfl

theorem written_cksum (hz : i ≠ .zeroize) (hck : i ≠ .ckCompute) : (written i s u).cksum = s.cksum := by
  cases i with
  | ckCompute => exact absurd rfl hck
  | zeroize => exact absurd rfl hz
  | _ => rfl

theorem written_store (hz : i ≠ .zeroize) (hss : ∀ p, i ≠ .ssDecode p) (hclear : i ≠ .ssClear) :
    (written i s u).store = s.store := by
  cases i with
  | ssDecode p => exact absurd rfl (hss p)
  | ssClear => exact absurd rfl hclear
  | zeroize => exact absurd rfl hz
  | _ => rfl

theorem written_wt (hz : i ≠ .zeroize) (hwl : ∀ k, i ≠ .wlWord k) : (written i s u).wt = s.wt := by
  cases i with
  | wlWord k => exact absurd rfl (hwl k)
  | zeroize => exact absurd rfl hz
  | _ => rfl

theorem written_shf (hz : i ≠ .zeroize) (hss : ∀ p, i ≠ .ssDecode p) (hgenid : i ≠ .ssGenid) :
    (written i s u).shf = s.shf := by
  cases i with
  | ssDecode p => exact absurd rfl (hss p)
  | ssGenid => exact absurd rfl hgenid
  | zeroize => exact absurd rfl hz
  | _ => rfl

theorem written_secret (hz : i ≠ .zeroize) (hss : ∀ p, i ≠ .ssDecode p) (hload : ∀ k, i ≠ .shLoadpt k)
    (hinterp : ∀ a, i ≠ .shInterp a) (hmn : i ≠ .mnDecode) (hrecover : i ≠ .ssRecover) :
    (written i s u).secret = s.secret := by
  cases i with
  | ssDecode p => exact absurd rfl (hss p)
  | shLoadpt k => exact absurd rfl (hload k)
  | shInterp a => exact absurd rfl (hinterp a)
  | mnDecode => exact absurd rfl hmn
  | ssRecover => exact absurd rfl hrecover
  | zeroize => exact absurd rfl hz
  | _ => rfl

theorem written_words (hz : i ≠ .zeroize) (hmn : i ≠ .mnEncode) (hss : i ≠ .ssEncode) (hdg : i ≠ .dgFromdigits)
    (hwl : ∀ k, i ≠ .wlIndex k) : (written i s u).words = s.words := by
  cases i with
  | mnEncode => exact absurd rfl hmn
  | ssEncode => exact absurd rfl hss
  | dgFromdigits => exact absurd rfl hdg
  | wlIndex k => exact absurd rfl (hwl k)
  | zeroize => exact absurd rfl hz
  | _ => rfl

theorem written_coef (hz : i ≠ .zeroize) (hgen : ∀ a, i ≠ .shGencoef a) (hsplit : ∀ a n, i ≠ .shSplit a n) :
    (written i s u).coef = s.coef := by
  cases i with
  | shGencoef a => exact absurd rfl (hgen a)
  | shSplit a n => exact absurd rfl (hsplit a n)
  | zeroize => exact absurd rfl hz
  | _ => rfl

theorem written_points (hz : i ≠ .zeroize) (heval : ∀ a x k, i ≠ .shEval a x k) (hsplit : ∀ a n, i ≠ .shSplit a n)
    (hstore : ∀ x k, i ≠ .shStorept x k) : (written i s u).px = s.px ∧ (written i s u).py = s.py := by
  cases i with
  | shEval a x k => exact absurd rfl (heval a x k)
  | shSplit a n => exact absurd rfl (hsplit a n)
  | shStorept x k => exact absurd rfl (hstore x k)
  | zeroize => exact absurd rfl hz
  | _ => exact ⟨rfl, rfl⟩

theorem written_env (hgen : ∀ a, i ≠ .shGencoef a) (hsplit : ∀ a n, i ≠ .shSplit a n) (hgenid : i ≠ .ssGenid) :
    (written i s u).env = s.env := by
  cases i with
  | shGencoef a => exact absurd rfl (hgen a)
  | shSplit a n => exact absurd rfl (hsplit a n)
  | ssGenid => exact absurd rfl hgenid
  | _ => rfl

end

/-- Settles O24: a report leaves every field alone, and a success writes the command's own fields only. -/
theorem onlyNamedCommandsWrite : Obligations.OnlyNamedCommandsWrite := by
  intro i s t h hz
  obtain ⟨u, rfl⟩ | ⟨r, -, rfl⟩ := exec_written_or_reported h
  · exact ⟨written_result u hz, written_len u hz, written_wcount u hz, written_digits u hz, written_npts u hz,
      written_cksum u hz, written_store u hz, written_wt u hz, written_shf u hz, written_secret u hz,
      written_words u hz, written_coef u hz, written_points u hz, written_env u⟩
  · exact ⟨fun _ _ _ _ _ => rfl, fun _ _ _ => rfl, fun _ _ _ => rfl, fun _ => ⟨rfl, rfl⟩, fun _ => rfl,
      fun _ => rfl, fun _ _ => rfl, fun _ => rfl, fun _ _ => rfl, fun _ _ _ _ _ => rfl, fun _ _ _ _ => rfl,
      fun _ _ => rfl, fun _ _ _ => ⟨rfl, rfl⟩, fun _ _ _ => rfl⟩

end Sys2Proof.Machine
end

section
/-! PROOFS. The run invariant (10_state.md sections 2 and 4; 30_encoding.md section 4; 60_exceptions.md sections 1
and 2). -/

namespace Sys2Proof.Machine

open Sys2Proof.Claims

/-! ### What the invariant reads -/

/-- The environment and OVR play no part in the invariant. -/
theorem State.Inv.of_env_ovr {s : State} (h : s.Inv) (e : Env) (ovr : Bool) : ({ s with env := e, ovr := ovr }).Inv :=
  ⟨h.storeBound, h.storeValid, h.busyClear, h.codeReportable, h.errHasCode, h.infoHasCode, h.resultWidth⟩

/-- Settles O9: at reset the store is empty, the unit idle and every code 0. -/
theorem invariantHoldsAtReset : Obligations.InvariantHoldsAtReset where
  storeBound := Nat.zero_le _
  storeValid := nofun
  busyClear := nofun
  codeReportable := by decide
  errHasCode := nofun
  infoHasCode := fun _ => ⟨rfl, rfl⟩
  resultWidth := by decide

theorem State.Inv.resetInput (s : State) (o : Option Access) : (s.resetInput o).Inv := by
  obtain h | h := resetInput_cases s o <;> rw [h]
  · exact State.Inv.of_env_ovr invariantHoldsAtReset _ false
  · exact State.Inv.of_env_ovr invariantHoldsAtReset _ false

/-! ### Completion -/

theorem code_reportable {e : CommandError} (h : e ≠ .indivisibleLength) : e.code ∈ reportableCodes := by
  cases e with
  | indivisibleLength => exact absurd rfl h
  | _ => decide

theorem State.Inv.report {s : State} (h : s.Inv) {r : Report} (hr : r.error ≠ .indivisibleLength) :
    (s.report r).Inv where
  storeBound := h.storeBound
  storeValid := h.storeValid
  busyClear := nofun
  codeReportable := code_reportable hr
  errHasCode := fun _ => code_ne_zero r.error
  infoHasCode := fun hzero => absurd hzero (code_ne_zero r.error)
  resultWidth := h.resultWidth

theorem State.Inv.completeIllegal {s : State} (h : s.Inv) (r : DecodeReject) : (s.completeIllegal r).Inv :=
  h.report nofun

/-! ### The store and RESULT after a command -/

/-- A message's 4-bit field of a count minus one gives a count of 1 to 16 (R152, R158). -/
theorem countField_bounds (msg : BitString) (i : Nat) :
    1 ≤ (BitVec.ofNat 5 (num (slice msg i (i + 4)) + 1)).toNat ∧
      (BitVec.ofNat 5 (num (slice msg i (i + 4)) + 1)).toNat ≤ 16 := by
  have hlen : (slice msg i (i + 4)).length ≤ 4 := by simp [slice]
  have hlt := (num_lt (slice msg i (i + 4))).trans_le (Nat.pow_le_pow_right Nat.two_pos hlen)
  rw [BitVec.toNat_ofNat]
  omega

/-- What SS.DECODE accepts meets the store's conditions (R50, R158). -/
theorem decodeShare_valid {sb : BitString} {l k : Nat} {e : StoreEntry} (hl : l ∈ Config.mnLens)
    (h : decodeShare sb l k = .ok e) : e.Valid := by
  simp only [decodeShare] at h
  split at h
  · cases h
  split at h
  · cases h
  split at h
  · cases h
  split at h
  · cases h
  rename_i hgi hgt
  cases h
  exact ⟨countField_bounds _ 24, countField_bounds _ 28, countField_bounds _ 36, Nat.not_le.1 hgi, Nat.not_lt.1 hgt,
    by simpa [messageValue] using hl⟩

theorem shareValueLen_mem : ∀ w ∈ Config.ssWords, shareValueLen w ∈ Config.mnLens := by decide

/-- SS.DECODE reports, or loads a valid share, which it may push where there is room (R50, R158). -/
theorem ssDecode_store_cases {push : Byte} {s t : State} (h : exec (.ssDecode push) s = .next t) :
    t.store = s.store ∨
      ∃ e : StoreEntry, e.Valid ∧ s.store.length < Config.storeSlots ∧ t.store = s.store ++ [e] := by
  simp only [exec, execSsDecode] at h
  split at h
  · cases h
    exact .inl rfl
  rename_i hcount
  have hlen := shareValueLen_mem _ (not_not.1 hcount)
  split at h
  · cases h
    exact .inl rfl
  rename_i e hshare
  split at h
  · split at h
    · cases h
      exact .inl rfl
    · rename_i hroom
      cases h
      exact .inr ⟨e, decodeShare_valid hlen hshare, Nat.not_le.1 hroom, rfl⟩
  · cases h
    exact .inl rfl

/-- The store after a command: as before, empty, or with one valid share more where there was room (R50). -/
theorem exec_store_cases {i : Instr} {s t : State} (h : exec i s = .next t) :
    t.store = s.store ∨ t.store = [] ∨
      ∃ e : StoreEntry, e.Valid ∧ s.store.length < Config.storeSlots ∧ t.store = s.store ++ [e] := by
  cases i with
  | zeroize => cases h; exact .inr (.inl rfl)
  | ssClear => cases h; exact .inr (.inl rfl)
  | ssDecode push => exact (ssDecode_store_cases h).imp_right .inr
  | _ => obtain ⟨u, rfl⟩ | ⟨r, -, rfl⟩ := exec_written_or_reported h <;> exact .inl rfl

theorem setWidth_toNat_lt_2048 (b : Byte) : (b.setWidth 32).toNat < 2048 := by
  rw [BitVec.toNat_setWidth]
  omega

theorem wlIndex_result_cases {slot : Byte} {s t : State} (h : exec (.wlIndex slot) s = .next t) :
    t.result = s.result ∨ t.result.toNat < 2048 := by
  simp only [exec, execWlIndex, State.indexWord] at h
  split at h
  · cases h
    exact .inl rfl
  split at h
  · rename_i i _
    cases h
    refine .inr ?_
    change (i.setWidth 32).toNat < 2048
    rw [BitVec.toNat_setWidth]
    omega
  · cases h
    exact .inl rfl

/-- RESULT after a command: as before, or a byte, a truth value or a word index (R31). -/
theorem exec_result_cases {i : Instr} {s t : State} (h : exec i s = .next t) :
    t.result = s.result ∨ t.result.toNat < 2048 := by
  cases i with
  | zeroize =>
    cases h
    exact .inr (show (0 : Word).toNat < 2048 by decide)
  | gfAdd a b =>
    cases h
    exact .inr (setWidth_toNat_lt_2048 _)
  | gfMul a b =>
    cases h
    exact .inr (setWidth_toNat_lt_2048 _)
  | gfInv a =>
    by_cases ha : a = 0
    · subst ha
      cases (gfInv_refusesZero s).symm.trans h
      exact .inl rfl
    · cases (exec_gfInv ha s).symm.trans h
      exact .inr (setWidth_toNat_lt_2048 _)
  | ckVerify c =>
    by_cases hlen : s.byteLen ∈ Config.ckLens
    · cases (exec_ckVerify hlen).symm.trans h
      right
      dsimp only
      split <;> decide
    · cases (ckVerify_refusesLen hlen).symm.trans h
      exact .inl rfl
  | wlIndex slot => exact wlIndex_result_cases h
  | _ => obtain ⟨u, rfl⟩ | ⟨r, -, rfl⟩ := exec_written_or_reported h <;> exact .inl rfl

/-! ### Every move keeps the invariant -/

/-- A command that runs from a clear report keeps the invariant. -/
theorem State.Inv.exec {s t : State} {i : Instr} (hs : s.Inv) (herr : s.err = false) (hcode : s.errcode = 0)
    (hindex : s.errindex = 0) (hgroup : s.errgroup = 0) (h : exec i s = .next t) : t.Inv := by
  obtain ⟨r, hr, horderly⟩ := exec_finishes i s
  cases hr.symm.trans h
  cases r with
  | error e => exact hs.report horderly
  | ok u =>
    obtain ⟨-, hkept⟩ := horderly
    obtain ⟨herr', hcode', hindex', hgroup'⟩ : u.err = false ∧ u.errcode = 0 ∧ u.errindex = 0 ∧ u.errgroup = 0 := by
      simpa only [KeepsReport, herr, hcode, hindex, hgroup, or_self] using hkept
    have hstore := exec_store_cases h
    have hresult := exec_result_cases h
    refine ⟨?_, ?_, nofun, ?_, ?_, fun _ => ⟨hindex', hgroup'⟩, ?_⟩
    · obtain hsame | hnil | ⟨e, -, hroom, happend⟩ := hstore
      · exact hsame ▸ hs.storeBound
      · exact hnil ▸ Nat.zero_le _
      · rw [happend, List.length_append]
        exact hroom
    · obtain hsame | hnil | ⟨e, hvalid, -, happend⟩ := hstore
      · exact hsame ▸ hs.storeValid
      · exact hnil ▸ nofun
      · rw [happend, List.forall_mem_append, List.forall_mem_singleton]
        exact ⟨hs.storeValid, hvalid⟩
    · exact (hcode' : u.succeed.errcode = 0) ▸ by decide
    · exact fun htrue => absurd herr' (ne_false_of_eq_true htrue)
    · obtain hsame | hlt := hresult
      · exact hsame ▸ hs.resultWidth
      · exact hlt

theorem State.Inv.stepUnit {s t : State} (hs : s.Inv) (h : stepUnit s = .next t) : t.Inv := by
  obtain ⟨-, hidle⟩ | ⟨w, hbusy, hrun⟩ := stepUnit_cases s
  · cases hidle.symm.trans h
    exact hs
  · obtain ⟨-, -, herr, hcode, hindex, hgroup⟩ := hs.busyClear w hbusy
    obtain ⟨i, -, hexec⟩ | ⟨r, -, hillegal⟩ := runWord_cases w s
    · exact hs.exec herr hcode hindex hgroup (hexec.symm.trans (hrun.symm.trans h))
    · cases hillegal.symm.trans (hrun.symm.trans h)
      exact hs.completeIllegal r

/-- A write that touches data registers and buffers only. -/
structure WritesDataOnly (s t : State) : Prop where
  phase : t.phase = s.phase
  cmd : t.cmd = s.cmd
  done : t.done = s.done
  err : t.err = s.err
  errcode : t.errcode = s.errcode
  errindex : t.errindex = s.errindex
  errgroup : t.errgroup = s.errgroup
  result : t.result = s.result
  store : t.store = s.store
  env : t.env = s.env

theorem writesDataOnly_writeCoef (s : State) (k m : Nat) (v : Word) : WritesDataOnly s (s.writeCoef k m v) := by
  unfold State.writeCoef
  split <;> constructor <;> rfl

theorem writesDataOnly_writePoint (s : State) (k m : Nat) (v : Word) : WritesDataOnly s (s.writePoint k m v) := by
  unfold State.writePoint
  constructor <;> rfl

/-- A register write issues a command, clears status bits, or writes data only. -/
theorem writeRegister_cases (s : State) (off : Nat) (v : Word) :
    (off = 0x004 ∧ s.writeRegister off v = s.issue v) ∨ (off = 0x008 ∧ s.writeRegister off v = s.writeStatus v) ∨
      WritesDataOnly s (s.writeRegister off v) := by
  unfold State.writeRegister
  split
  · exact .inl ⟨rfl, rfl⟩
  · exact .inr (.inl ⟨rfl, rfl⟩)
  all_goals exact .inr (.inr (by constructor <;> rfl))

/-- So does a write to the window. -/
theorem windowWrite_cases (s : State) (off : Nat) (v : Word) :
    (off = 0x004 ∧ s.windowWrite off v = s.issue v) ∨ (off = 0x008 ∧ s.windowWrite off v = s.writeStatus v) ∨
      WritesDataOnly s (s.windowWrite off v) := by
  by_cases hreg : off < 0x100
  · have hpage : s.windowWrite off v = s.writeRegister off v := if_pos hreg
    exact hpage ▸ writeRegister_cases s off v
  · refine .inr (.inr ?_)
    rw [State.windowWrite, if_neg hreg]
    repeat' split
    on_goal 7 => exact writesDataOnly_writeCoef s _ _ v
    on_goal 9 => exact writesDataOnly_writePoint s _ _ v
    all_goals constructor <;> rfl

theorem State.Inv.of_writesDataOnly {s t : State} (hs : s.Inv) (h : WritesDataOnly s t) : t.Inv where
  storeBound := h.store ▸ hs.storeBound
  storeValid := h.store ▸ hs.storeValid
  busyClear := by
    rw [h.phase, h.cmd, h.done, h.err, h.errcode, h.errindex, h.errgroup]
    exact hs.busyClear
  codeReportable := h.errcode ▸ hs.codeReportable
  errHasCode := h.err ▸ h.errcode ▸ hs.errHasCode
  infoHasCode := by
    rw [h.errcode, h.errindex, h.errgroup]
    exact hs.infoHasCode
  resultWidth := h.result ▸ hs.resultWidth

theorem State.Inv.issue {s : State} (hs : s.Inv) (w : Word) : (s.issue w).Inv where
  storeBound := hs.storeBound
  storeValid := hs.storeValid
  busyClear := fun _ hbusy => ⟨Phase.busy.inj hbusy, rfl, rfl, rfl, rfl, rfl⟩
  codeReportable := List.mem_cons_self
  errHasCode := nofun
  infoHasCode := fun _ => ⟨rfl, rfl⟩
  resultWidth := hs.resultWidth

theorem State.Inv.writeStatus {s : State} (hs : s.Inv) (hidle : s.phase = .idle) (v : Word) :
    (s.writeStatus v).Inv where
  storeBound := hs.storeBound
  storeValid := hs.storeValid
  busyClear := fun _ hbusy => nomatch hidle.symm.trans hbusy
  codeReportable := hs.codeReportable
  errHasCode := fun herr => hs.errHasCode (Bool.and_eq_true_iff.1 herr).1
  infoHasCode := hs.infoHasCode
  resultWidth := hs.resultWidth

theorem State.Inv.hostWrite {s : State} (hs : s.Inv) (off : Nat) (v : Word) : (s.hostWrite off v).Inv := by
  obtain ⟨hidle, hwrite⟩ | ⟨_, -, hwrite⟩ := hostWrite_cases s off v <;> rw [hwrite]
  · obtain ⟨-, hissue⟩ | ⟨-, hstatus⟩ | hdata := windowWrite_cases s off v
    · exact hissue ▸ hs.issue v
    · exact hstatus ▸ hs.writeStatus hidle v
    · exact hs.of_writesDataOnly hdata
  · exact hs.of_env_ovr s.env true

theorem State.Inv.hostRead {s : State} (hs : s.Inv) (off : Nat) : (s.hostRead off).Inv := by
  obtain ⟨-, hread⟩ | ⟨-, -, hread⟩ := hostRead_cases s off <;> rw [hread]
  · exact hs.of_env_ovr _ s.ovr
  · exact hs.of_env_ovr _ s.ovr

theorem State.Inv.serve {s : State} (hs : s.Inv) (a : Access) : (s.serve a).Inv := by
  cases a with
  | read off _ => exact hs.hostRead off.toNat
  | write off _ v => exact hs.hostWrite off.toNat v

theorem State.Inv.withEvents {s : State} (hs : s.Inv) (es : List Event) : (s.withEvents es).Inv :=
  hs.of_env_ovr _ s.ovr

theorem State.Inv.stepEvent {s t : State} {e : Event} (hs : s.Inv) (h : stepEvent e s = .next t) : t.Inv := by
  cases e with
  | access a =>
    obtain ⟨-, hserve⟩ | ⟨-, hrefuse⟩ := busAccess_cases a s
    · cases hserve.symm.trans h
      exact hs.serve a
    · cases hrefuse.symm.trans h
  | unit => exact hs.stepUnit h
  | reset o =>
    cases h
    exact State.Inv.resetInput s o

/-- Settles O10: the unit's move completes a command from a clear report, the host's writes data, issues or clears
status bits, and reset starts over. -/
theorem everyStepKeepsTheInvariant : Obligations.EveryStepKeepsTheInvariant := by
  intro s s' hs h
  cases hevents : s.env.events with
  | nil => exact hs.stepUnit ((step_events_nil hevents).symm.trans h)
  | cons e rest => exact (hs.withEvents rest).stepEvent ((step_events_cons hevents).symm.trans h)

end Sys2Proof.Machine
end

section
/-! PROOFS. The bus window read: registers and buffers (10_state.md section 2; 20_memory.md R58 to R75). -/

namespace Sys2Proof.Machine

open Sys2Proof.Claims

/-! ### Fields of a bus word -/

/-- A field is its bits. -/
theorem extractLsb'_eq_of_bits {x : Word} {n : Nat} {y : BitVec n} (k : Nat)
    (h : ∀ i < n, x.getLsbD (k + i) = y.getLsbD i) : x.extractLsb' k n = y := by
  refine BitVec.eq_of_getLsbD_eq fun i hi => ?_
  rw [BitVec.getLsbD_extractLsb', decide_eq_true hi, Bool.true_and, h i hi]

theorem extractLsb'_eq_zero_of_bits {x : Word} {n : Nat} (k : Nat) (h : ∀ i < n, x.getLsbD (k + i) = false) :
    x.extractLsb' k n = 0 :=
  extractLsb'_eq_of_bits k fun i hi => (h i hi).trans BitVec.getLsbD_zero.symm

theorem packBytes_byte (b0 b1 b2 b3 : Byte) :
    (packBytes b0 b1 b2 b3).extractLsb' 0 8 = b0 ∧ (packBytes b0 b1 b2 b3).extractLsb' 8 8 = b1 ∧
      (packBytes b0 b1 b2 b3).extractLsb' 16 8 = b2 ∧ (packBytes b0 b1 b2 b3).extractLsb' 24 8 = b3 := by
  refine ⟨extractLsb'_eq_of_bits 0 fun i hi => ?_, extractLsb'_eq_of_bits 8 fun i hi => ?_,
    extractLsb'_eq_of_bits 16 fun i hi => ?_, extractLsb'_eq_of_bits 24 fun i hi => ?_⟩
  all_goals simp (disch := omega) only [packBytes_bit, if_pos, if_neg, Nat.zero_add, Nat.add_sub_cancel_left]

/-- Byte `k` of a buffer's bus word `m` is the buffer's byte `4m + k` (R60, R68). -/
theorem packAt_byte {n : Nat} (buf : Vector Byte n) (m : Nat) {k : Nat} (hk : k < 4) :
    (packAt buf m).extractLsb' (8 * k) 8 = buf.getD (4 * m + k) 0 := by
  obtain ⟨h0, h1, h2, h3⟩ := packBytes_byte (buf.getD (4 * m) 0) (buf.getD (4 * m + 1) 0) (buf.getD (4 * m + 2) 0)
    (buf.getD (4 * m + 3) 0)
  match k, hk with
  | 0, _ => exact h0
  | 1, _ => exact h1
  | 2, _ => exact h2
  | 3, _ => exact h3

theorem busy_iff (s : State) : s.busy = true ↔ ∃ w, s.phase = .busy w := by
  unfold State.busy
  cases s.phase <;> simp

/-- STATUS, bit by bit (R28). -/
theorem statusWord_getLsbD (s : State) (i : Nat) :
    s.statusWord.getLsbD i = if i < 1 then s.busy else if i < 2 then s.done else if i < 3 then s.err
      else if i < 4 then s.ovr else if i < 8 then false else s.errcode.getLsbD (i - 8) := by
  unfold State.statusWord
  iterate 6 rw [BitVec.getLsbD_append]
  simp only [BitVec.getLsbD_zero, BitVec.getLsbD_ofBool]
  grind

/-- ERRINFO, bit by bit (R29). -/
theorem errinfoWord_getLsbD (s : State) (i : Nat) :
    s.errinfoWord.getLsbD i = if i < 16 then s.errindex.getLsbD i else s.errgroup.getLsbD (i - 16) := by
  unfold State.errinfoWord
  iterate 2 rw [BitVec.getLsbD_append]
  simp only [BitVec.getLsbD_zero]
  grind

/-- SHF0, bit by bit (R39). -/
theorem word0_getLsbD (f : ShareFields) (i : Nat) :
    f.word0.getLsbD i = if i < 15 then f.id.getLsbD i else if i < 16 then false else f.ie.getLsbD (i - 16) := by
  unfold ShareFields.word0
  iterate 3 rw [BitVec.getLsbD_append]
  simp only [BitVec.getLsbD_zero]
  grind

/-- SHF1, bit by bit (R40). -/
theorem word1_getLsbD (f : ShareFields) (i : Nat) :
    f.word1.getLsbD i = if i < 4 then f.gi.getLsbD i else if i < 8 then false else if i < 13 then f.gt.getLsbD (i - 8)
      else if i < 16 then false else f.gc.getLsbD (i - 16) := by
  unfold ShareFields.word1
  iterate 5 rw [BitVec.getLsbD_append]
  simp only [BitVec.getLsbD_zero]
  grind

/-- SHF2, bit by bit (R41). -/
theorem word2_getLsbD (f : ShareFields) (i : Nat) :
    f.word2.getLsbD i = if i < 4 then f.mi.getLsbD i else if i < 8 then false else f.mt.getLsbD (i - 8) := by
  unfold ShareFields.word2
  iterate 3 rw [BitVec.getLsbD_append]
  simp only [BitVec.getLsbD_zero]
  grind

/-! ### Registers -/

theorem statusWord_fields (s : State) :
    s.statusWord.getLsbD 0 = s.busy ∧ s.statusWord.getLsbD 1 = s.done ∧ s.statusWord.getLsbD 2 = s.err ∧
      s.statusWord.getLsbD 3 = s.ovr ∧ s.statusWord.extractLsb' 4 4 = 0 ∧ s.statusWord.extractLsb' 8 8 = s.errcode ∧
      s.statusWord.extractLsb' 16 16 = 0 := by
  refine ⟨statusWord_getLsbD s 0, statusWord_getLsbD s 1, statusWord_getLsbD s 2, statusWord_getLsbD s 3,
    extractLsb'_eq_zero_of_bits 4 fun i hi => ?_, extractLsb'_eq_of_bits 8 fun i hi => ?_,
    extractLsb'_eq_zero_of_bits 16 fun i hi => ?_⟩
  all_goals
    simp (disch := omega) only [statusWord_getLsbD, if_pos, if_neg, Nat.add_sub_cancel_left, BitVec.getLsbD_of_ge]

theorem errinfoWord_fields (s : State) :
    s.errinfoWord.extractLsb' 0 16 = s.errindex ∧ s.errinfoWord.extractLsb' 16 8 = s.errgroup ∧
      s.errinfoWord.extractLsb' 24 8 = 0 := by
  refine ⟨extractLsb'_eq_of_bits 0 fun i hi => ?_, extractLsb'_eq_of_bits 16 fun i hi => ?_,
    extractLsb'_eq_zero_of_bits 24 fun i hi => ?_⟩
  all_goals
    simp (disch := omega) only [errinfoWord_getLsbD, if_pos, if_neg, Nat.zero_add, Nat.add_sub_cancel_left,
      BitVec.getLsbD_of_ge]

theorem word0_fields (f : ShareFields) :
    f.word0.extractLsb' 0 15 = f.id ∧ f.word0.getLsbD 15 = false ∧ f.word0.extractLsb' 16 5 = f.ie ∧
      f.word0.extractLsb' 21 11 = 0 := by
  refine ⟨extractLsb'_eq_of_bits 0 fun i hi => ?_, word0_getLsbD f 15, extractLsb'_eq_of_bits 16 fun i hi => ?_,
    extractLsb'_eq_zero_of_bits 21 fun i hi => ?_⟩
  all_goals
    simp (disch := omega) only [word0_getLsbD, if_pos, if_neg, Nat.zero_add, Nat.add_sub_cancel_left,
      BitVec.getLsbD_of_ge]

theorem word1_fields (f : ShareFields) :
    f.word1.extractLsb' 0 4 = f.gi ∧ f.word1.extractLsb' 4 4 = 0 ∧ f.word1.extractLsb' 8 5 = f.gt ∧
      f.word1.extractLsb' 13 3 = 0 ∧ f.word1.extractLsb' 16 5 = f.gc ∧ f.word1.extractLsb' 21 11 = 0 := by
  refine ⟨extractLsb'_eq_of_bits 0 fun i hi => ?_, extractLsb'_eq_zero_of_bits 4 fun i hi => ?_,
    extractLsb'_eq_of_bits 8 fun i hi => ?_, extractLsb'_eq_zero_of_bits 13 fun i hi => ?_,
    extractLsb'_eq_of_bits 16 fun i hi => ?_, extractLsb'_eq_zero_of_bits 21 fun i hi => ?_⟩
  all_goals
    simp (disch := omega) only [word1_getLsbD, if_pos, if_neg, Nat.zero_add, Nat.add_sub_cancel_left,
      BitVec.getLsbD_of_ge]

theorem word2_fields (f : ShareFields) :
    f.word2.extractLsb' 0 4 = f.mi ∧ f.word2.extractLsb' 4 4 = 0 ∧ f.word2.extractLsb' 8 5 = f.mt ∧
      f.word2.extractLsb' 13 19 = 0 := by
  refine ⟨extractLsb'_eq_of_bits 0 fun i hi => ?_, extractLsb'_eq_zero_of_bits 4 fun i hi => ?_,
    extractLsb'_eq_of_bits 8 fun i hi => ?_, extractLsb'_eq_zero_of_bits 13 fun i hi => ?_⟩
  all_goals
    simp (disch := omega) only [word2_getLsbD, if_pos, if_neg, Nat.zero_add, Nat.add_sub_cancel_left,
      BitVec.getLsbD_of_ge]

theorem ctrl_fields (b : Bool) :
    ((BitVec.ofBool b).setWidth 32).getLsbD 0 = b ∧ ((BitVec.ofBool b).setWidth 32).extractLsb' 1 31 = 0 := by
  cases b <;> decide

/-- Settles O15: each register's word is its fields at their positions; the counts and SSCOUNT are zero-extended. -/
theorem registersReadTheirFields : Obligations.RegistersReadTheirFields := by
  intro s
  obtain ⟨hbusy, hdone, herr, hovr, hlow, hcode, hhigh⟩ := statusWord_fields s
  obtain ⟨hindex, hgroup, hinfo⟩ := errinfoWord_fields s
  obtain ⟨hie, hctrl⟩ := ctrl_fields s.ie
  obtain ⟨hid, hbit15, hexp, hshf0⟩ := word0_fields s.shf
  obtain ⟨hgi, hgap1, hgt, hgap1', hgc, hshf1⟩ := word1_fields s.shf
  obtain ⟨hmi, hgap2, hmt, hshf2⟩ := word2_fields s.shf
  have hcount : s.store.length ≤ 256 → (BitVec.ofNat 32 s.store.length).toNat = s.store.length := fun h =>
    Nat.mod_eq_of_lt (by omega)
  have hwide {n : Nat} (h : n ≤ 32) (x : BitVec n) : (x.setWidth 32).toNat = x.toNat := BitVec.toNat_setWidth_of_le h
  have hwt0 (k : Nat) (hk : k < 4) : (packAt s.wt 0).extractLsb' (8 * k) 8 = s.wt.getD k 0 := by
    rw [packAt_byte _ _ hk, Nat.mul_zero, Nat.zero_add]
  exact ⟨rfl, rfl, hbusy ▸ busy_iff s, hdone, herr, hovr, hlow, hcode, hhigh, hindex, hgroup, hinfo, hie, hctrl, rfl,
    hwide (by decide) s.len, hwide (by decide) s.wcount, hwide (by decide) s.dcount, hwide (by decide) s.npts,
    hwide (by decide) s.cksum, hcount, hwt0, fun k hk => packAt_byte s.wt 1 hk, hid, hbit15,
    hexp, hshf0, hgi, hgap1, hgt, hgap1', hgc, hshf1, hmi, hgap2, hmt,
    hshf2⟩

/-! ### Buffers -/

section
variable (s : State)

theorem windowWord_register {off : Nat} (h : off < 0x100) : s.windowWord off = s.readRegister off := if_pos h

theorem windowWord_secret {m : Nat} (hm : m < 8) : s.windowWord (0x100 + 4 * m) = packAt s.secret m := by
  simp (disch := omega) only [State.windowWord, if_pos, if_neg]
  congr 1
  omega

theorem windowWord_words {i : Nat} (hi : i < 32) : s.windowWord (0x200 + 4 * i) = (wordAt s i).setWidth 32 := by
  simp (disch := omega) only [State.windowWord, if_pos, if_neg]
  congr 2
  omega

theorem windowWord_digits {m : Nat} (hm : m < 32) : s.windowWord (0x300 + 4 * m) = packAt s.digits m := by
  simp (disch := omega) only [State.windowWord, if_pos, if_neg]
  congr 1
  omega

theorem windowWord_coef {r m : Nat} (hr : r < 16) (hm : m < 8) :
    s.windowWord (0x400 + 32 * r + 4 * m) = packAt (s.coefRow r) m := by
  simp (disch := omega) only [State.windowWord, if_pos, if_neg]
  congr 2 <;> omega

theorem windowWord_px {m : Nat} (hm : m < 4) : s.windowWord (0x600 + 4 * m) = packAt s.px m := by
  simp (disch := omega) only [State.windowWord, if_pos, if_neg]
  congr 1
  omega

theorem windowWord_py {r m : Nat} (hr : r < 16) (hm : m < 8) :
    s.windowWord (0x800 + 32 * r + 4 * m) = packAt (s.pointRow r) m := by
  simp (disch := omega) only [State.windowWord, if_pos, if_neg]
  congr 2 <;> omega

variable (v : Word)

theorem windowWrite_register {off : Nat} (h : off < 0x100) : s.windowWrite off v = s.writeRegister off v := if_pos h

theorem windowWrite_secret {m : Nat} (hm : m < 8) :
    s.windowWrite (0x100 + 4 * m) v = { s with secret := storeAt s.secret m v } := by
  simp (disch := omega) only [State.windowWrite, if_pos, if_neg, Nat.add_sub_cancel_left, Nat.mul_div_cancel_left]

theorem windowWrite_words {i : Nat} (hi : i < 32) :
    s.windowWrite (0x200 + 4 * i) v = { s with words := s.words.setIfInBounds i (v.extractLsb' 0 11) } := by
  simp (disch := omega) only [State.windowWrite, if_pos, if_neg, Nat.add_sub_cancel_left, Nat.mul_div_cancel_left]

theorem windowWrite_digits {m : Nat} (hm : m < 32) :
    s.windowWrite (0x300 + 4 * m) v = { s with digits := storeAt s.digits m v } := by
  simp (disch := omega) only [State.windowWrite, if_pos, if_neg, Nat.add_sub_cancel_left, Nat.mul_div_cancel_left]

theorem windowWrite_coef {r m : Nat} (hr : r < 16) (hm : m < 8) :
    s.windowWrite (0x400 + 32 * r + 4 * m) v = s.writeCoef r m v := by
  simp (disch := omega) only [State.windowWrite, if_pos, if_neg]
  congr 1 <;> omega

theorem windowWrite_px {m : Nat} (hm : m < 4) :
    s.windowWrite (0x600 + 4 * m) v = { s with px := storeAt s.px m v } := by
  simp (disch := omega) only [State.windowWrite, if_pos, if_neg, Nat.add_sub_cancel_left, Nat.mul_div_cancel_left]

theorem windowWrite_py {r m : Nat} (hr : r < 16) (hm : m < 8) :
    s.windowWrite (0x800 + 32 * r + 4 * m) v = s.writePoint r m v := by
  simp (disch := omega) only [State.windowWrite, if_pos, if_neg]
  congr 1 <;> omega

end

/-- A write to COEF row 0 is the write to SECRET, in either phase (R63, R74). -/
theorem hostWrite_coefRow0 (s : State) {m : Nat} (hm : m < 8) (v : Word) :
    s.hostWrite (0x400 + 4 * m) v = s.hostWrite (0x100 + 4 * m) v := by
  have hwrite : s.windowWrite (0x400 + 4 * m) v = s.windowWrite (0x100 + 4 * m) v := by
    rw [windowWrite_secret s v hm, show 0x400 + 4 * m = 0x400 + 32 * 0 + 4 * m by omega,
      windowWrite_coef s v (by decide) hm]
    exact if_pos rfl
  unfold State.hostWrite
  cases s.phase with
  | idle => exact hwrite
  | busy w => rfl

/-- Settles O16: each buffer's word packs four of its bytes, or holds one word index; row 0 of COEF is SECRET. -/
theorem buffersReadLittleEndian : Obligations.BuffersReadLittleEndian := by
  refine fun s => ⟨fun m hm k hk => ?_, fun i hi => ?_, fun m hm k hk => ?_, fun r hr m hm k hk => ?_,
    fun m hm k hk => ?_, fun r hr m hm k hk => ?_, fun m hm v => ⟨?_, hostWrite_coefRow0 s hm v⟩, fun j => rfl⟩
  · rw [windowWord_secret s hm, packAt_byte _ _ hk]
  · rw [windowWord_words s hi, BitVec.toNat_setWidth_of_le (by decide)]
  · rw [windowWord_digits s hm, packAt_byte _ _ hk]
  · rw [windowWord_coef s hr hm, packAt_byte _ _ hk, State.coefByte]
  · rw [windowWord_px s hm, packAt_byte _ _ hk, State.pointX]
  · rw [windowWord_py s hr hm, packAt_byte _ _ hk]
  · rw [windowWord_secret s hm, show 0x400 + 4 * m = 0x400 + 32 * 0 + 4 * m by omega,
      windowWord_coef s (by decide) hm]
    rfl

/-! ### Reads -/

theorem hostRead_idle {s : State} (off : Nat) (h : s.phase = .idle) : s.hostRead off = s.reply (s.windowWord off) := by
  unfold State.hostRead
  rw [h]

theorem hostRead_busy_defined {s : State} {w : Word} {off : Nat} (h : s.phase = .busy w)
    (hoff : readableWhileBusy off) :
    s.hostRead off = s.reply (s.windowWord off) := by
  unfold State.hostRead
  rw [h]
  exact if_pos hoff

theorem hostRead_busy_free {s : State} {w : Word} {off : Nat} (h : s.phase = .busy w) (hoff : ¬ readableWhileBusy off) :
    s.hostRead off = s.replyFree := by
  unfold State.hostRead
  rw [h]
  exact if_neg hoff

/-- Settles O14: a read adds one reply to the environment; busy, the three readable locations give their content. -/
theorem readsHaveNoSideEffect : Obligations.ReadsHaveNoSideEffect := by
  refine ⟨fun s off rest hidle halign hevents => ?_, fun s w off rest hbusy halign hevents => ?_⟩
  all_goals rw [step_access hevents ⟨rfl, halign⟩]
  · exact congrArg Host.Outcome.next (hostRead_idle (s := s.withEvents rest) off.toNat hidle)
  by_cases hoff : readableWhileBusy off.toNat
  · refine ⟨s.windowWord off.toNat, s.env.freshReads,
      congrArg Host.Outcome.next (hostRead_busy_defined (s := s.withEvents rest) hbusy hoff), ?_, ?_, ?_⟩
    · rintro rfl
      rfl
    · rintro rfl
      rfl
    · rintro rfl
      obtain ⟨hb, hfields⟩ := statusWord_fields s
      exact ⟨hb.trans ((busy_iff s).2 ⟨w, hbusy⟩), hfields⟩
  · refine ⟨_, _, congrArg Host.Outcome.next (hostRead_busy_free (s := s.withEvents rest) hbusy hoff), ?_, ?_, ?_⟩
    · exact fun h => absurd (.inl (congrArg BitVec.toNat h)) hoff
    · exact fun h => absurd (.inr (.inl (congrArg BitVec.toNat h))) hoff
    · exact fun h => absurd (.inr (.inr (congrArg BitVec.toNat h))) hoff

end Sys2Proof.Machine
end

section
/-! PROOFS. The bus window written (10_state.md section 2; 20_memory.md R60 to R66, R72). -/

namespace Sys2Proof.Machine

open Sys2Proof.Claims

/-! ### Which part of the window an offset lies in -/

/-- An aligned offset is a register's, a buffer word's, or reserved. -/
theorem window_cases {off : Nat} (hoff : off < 0x1000) (halign : off % 4 = 0) :
    off < 0x100 ∨ (∃ m < 8, off = 0x100 + 4 * m) ∨ (∃ i < 32, off = 0x200 + 4 * i) ∨
      (∃ m < 32, off = 0x300 + 4 * m) ∨ (∃ r < 16, ∃ m < 8, off = 0x400 + 32 * r + 4 * m) ∨
      (∃ m < 4, off = 0x600 + 4 * m) ∨ (∃ r < 16, ∃ m < 8, off = 0x800 + 32 * r + 4 * m) ∨
      (0x100 ≤ off ∧ reservedOffset off) := by
  by_cases hreg : off < 0x100
  · exact .inl hreg
  refine .inr ?_
  by_cases hsecret : off < 0x120
  · exact .inl ⟨(off - 0x100) / 4, by omega, by omega⟩
  refine .inr ?_
  by_cases hwords : 0x200 ≤ off ∧ off < 0x280
  · exact .inl ⟨(off - 0x200) / 4, by omega, by omega⟩
  refine .inr ?_
  by_cases hdigits : 0x300 ≤ off ∧ off < 0x380
  · exact .inl ⟨(off - 0x300) / 4, by omega, by omega⟩
  refine .inr ?_
  by_cases hcoef : 0x400 ≤ off ∧ off < 0x600
  · exact .inl ⟨(off - 0x400) / 32, by omega, (off - 0x400) % 32 / 4, by omega, by omega⟩
  refine .inr ?_
  by_cases hpx : 0x600 ≤ off ∧ off < 0x610
  · exact .inl ⟨(off - 0x600) / 4, by omega, by omega⟩
  refine .inr ?_
  by_cases hpy : 0x800 ≤ off ∧ off < 0xA00
  · exact .inl ⟨(off - 0x800) / 32, by omega, (off - 0x800) % 32 / 4, by omega, by omega⟩
  · exact .inr ⟨Nat.not_lt.1 hreg, by unfold reservedOffset; omega⟩

/-- A location reads the same in two states that agree on what is stored there. -/
theorem windowWord_congr {s t : State} {off : Nat} (hoff : off < 0x1000) (halign : off % 4 = 0)
    (hreg : off < 0x100 → t.readRegister off = s.readRegister off)
    (hsecret : ∀ m, off = 0x100 + 4 * m → packAt t.secret m = packAt s.secret m)
    (hwords : ∀ i < 32, off = 0x200 + 4 * i → wordAt t i = wordAt s i)
    (hdigits : ∀ m, off = 0x300 + 4 * m → packAt t.digits m = packAt s.digits m)
    (hcoef : ∀ r < 16, ∀ m < 8, off = 0x400 + 32 * r + 4 * m → packAt (t.coefRow r) m = packAt (s.coefRow r) m)
    (hpx : ∀ m, off = 0x600 + 4 * m → packAt t.px m = packAt s.px m)
    (hpy : ∀ r < 16, ∀ m < 8, off = 0x800 + 32 * r + 4 * m → packAt (t.pointRow r) m = packAt (s.pointRow r) m) :
    t.windowWord off = s.windowWord off := by
  obtain h | ⟨m, hm, rfl⟩ | ⟨i, hi, rfl⟩ | ⟨m, hm, rfl⟩ | ⟨r, hr, m, hm, rfl⟩ | ⟨m, hm, rfl⟩ | ⟨r, hr, m, hm, rfl⟩ |
    ⟨-, h⟩ := window_cases hoff halign
  · rw [windowWord_register t h, windowWord_register s h, hreg h]
  · rw [windowWord_secret t hm, windowWord_secret s hm, hsecret m rfl]
  · rw [windowWord_words t hi, windowWord_words s hi, hwords i hi rfl]
  · rw [windowWord_digits t hm, windowWord_digits s hm, hdigits m rfl]
  · rw [windowWord_coef t hr hm, windowWord_coef s hr hm, hcoef r hr m hm rfl]
  · rw [windowWord_px t hm, windowWord_px s hm, hpx m rfl]
  · rw [windowWord_py t hr hm, windowWord_py s hr hm, hpy r hr m hm rfl]
  · rw [t.windowWord_reserved h, s.windowWord_reserved h]

/-! ### A row written -/

theorem writeCoef_coefRow (s : State) {k r : Nat} (m : Nat) (v : Word) (hr : r < 16) :
    (s.writeCoef k m v).coefRow r = if r = k then storeAt (s.coefRow k) m v else s.coefRow r := by
  obtain rfl | hk := Nat.eq_zero_or_pos k
  · obtain rfl | hr' := Nat.eq_zero_or_pos r
    · simp only [State.writeCoef, State.coefRow, if_true]
    · simp only [State.writeCoef, State.coefRow, hr'.ne', if_true, if_false]
  · rw [State.writeCoef, if_neg hk.ne']
    obtain rfl | hr' := Nat.eq_zero_or_pos r
    · simp only [State.coefRow, hk.ne, if_true, if_false]
    · have hrow : r - 1 < 15 := by omega
      have hsame : r - 1 + 1 = k ↔ r = k := by omega
      by_cases hrk : r = k
      · subst hrk
        simp [State.coefRow, Vector.getD, hr'.ne', hrow, hsame]
      · simp [State.coefRow, Vector.getD, hr'.ne', hrow, hsame, hrk]

theorem writePoint_pointRow (s : State) {k r : Nat} (m : Nat) (v : Word) (hr : r < 16) :
    (s.writePoint k m v).pointRow r = if r = k then storeAt (s.pointRow k) m v else s.pointRow r := by
  by_cases hk : r = k
  · subst hk
    simp [State.writePoint, State.pointRow, Vector.getD, hr]
  · simp [State.writePoint, State.pointRow, Vector.getD, hr, hk]

/-! ### What a write stores -/

/-- The word `old` with the bits under `mask` taken from `v`. -/
abbrev merged (mask v old : Word) : Word := (v &&& mask) ||| (old &&& ~~~mask)

theorem merged_bit (mask v old : Word) {i : Nat} (hi : i < 32) :
    (merged mask v old).getLsbD i = if mask.getLsbD i then v.getLsbD i else old.getLsbD i := by
  rw [BitVec.getLsbD_or, BitVec.getLsbD_and, BitVec.getLsbD_and, BitVec.getLsbD_not, decide_eq_true hi]
  cases mask.getLsbD i <;> simp

theorem merged_none (v old : Word) : merged 0 v old = old := by
  refine BitVec.eq_of_getLsbD_eq fun i hi => ?_
  exact (merged_bit _ _ _ hi).trans (if_neg (ne_true_of_eq_false BitVec.getLsbD_zero))

theorem merged_all (v old : Word) : merged 0xFFFFFFFF v old = v := by
  refine BitVec.eq_of_getLsbD_eq fun i hi => ?_
  rw [merged_bit _ _ _ hi, if_pos (by revert i; decide)]

/-- A zero-extended field of `n` bits at bit 0. -/
theorem setWidth_extract_eq_merged {n : Nat} {mask : Word} (hmask : ∀ i < 32, mask.getLsbD i = decide (i < n))
    (v : Word) (old : BitVec n) : (v.extractLsb' 0 n).setWidth 32 = merged mask v (old.setWidth 32) := by
  refine BitVec.eq_of_getLsbD_eq fun i hi => ?_
  rw [merged_bit _ _ _ hi, hmask i hi]
  by_cases hn : i < n
  · simp [hn, hi]
  · simp [hn, BitVec.getLsbD_of_ge old i (Nat.not_lt.1 hn)]

theorem word0_eq_merged (f : ShareFields) (v : Word) :
    ({ f with id := v.extractLsb' 0 15, ie := v.extractLsb' 16 5 } : ShareFields).word0 =
      merged 0x001F7FFF v f.word0 := by
  have hmask : ∀ i < 32, (0x001F7FFF : Word).getLsbD i = decide (i < 15 ∨ 16 ≤ i ∧ i < 21) := by decide
  refine BitVec.eq_of_getLsbD_eq fun i hi => ?_
  rw [merged_bit _ _ _ hi, hmask i hi, word0_getLsbD, word0_getLsbD]
  simp only [BitVec.getLsbD_extractLsb']
  grind

theorem word1_eq_merged (f : ShareFields) (v : Word) :
    ({ f with gi := v.extractLsb' 0 4, gt := v.extractLsb' 8 5, gc := v.extractLsb' 16 5 } : ShareFields).word1 =
      merged 0x001F1F0F v f.word1 := by
  have hmask : ∀ i < 32, (0x001F1F0F : Word).getLsbD i = decide (i < 4 ∨ 8 ≤ i ∧ i < 13 ∨ 16 ≤ i ∧ i < 21) := by
    decide
  refine BitVec.eq_of_getLsbD_eq fun i hi => ?_
  rw [merged_bit _ _ _ hi, hmask i hi, word1_getLsbD, word1_getLsbD]
  simp only [BitVec.getLsbD_extractLsb']
  grind

theorem word2_eq_merged (f : ShareFields) (v : Word) :
    ({ f with mi := v.extractLsb' 0 4, mt := v.extractLsb' 8 5 } : ShareFields).word2 =
      merged 0x00001F0F v f.word2 := by
  have hmask : ∀ i < 32, (0x00001F0F : Word).getLsbD i = decide (i < 4 ∨ 8 ≤ i ∧ i < 13) := by decide
  refine BitVec.eq_of_getLsbD_eq fun i hi => ?_
  rw [merged_bit _ _ _ hi, hmask i hi, word2_getLsbD, word2_getLsbD]
  simp only [BitVec.getLsbD_extractLsb']
  grind

/-- The offsets of the register page without a writable bit are those that no writable register has. -/
theorem writableMask_eq_zero {off : Nat} (hoff : off < 0x100)
    (h : off ≠ 0x010 ∧ off ≠ 0x018 ∧ off ≠ 0x01C ∧ off ≠ 0x020 ∧ off ≠ 0x024 ∧ off ≠ 0x030 ∧ off ≠ 0x034 ∧
      off ≠ 0x040 ∧ off ≠ 0x044 ∧ off ≠ 0x048) : writableMask off = 0 := by
  obtain ⟨h10, h18, h1C, h20, h24, h30, h34, h40, h44, h48⟩ := h
  simp only [writableMask, h10, h18, h1C, h20, h24, h30, h34, h40, h44, h48, or_self, if_false]
  iterate 5 rw [if_neg (by omega)]

/-- A register write stores the writable bits (10_state.md section 2). -/
theorem readRegister_writeRegister_same (s : State) (v : Word) {off : Nat} (hoff : off < 0x100) (hcmd : off ≠ 0x004)
    (hstatus : off ≠ 0x008) :
    (s.writeRegister off v).readRegister off = merged (writableMask off) v (s.readRegister off) := by
  fun_cases State.writeRegister s off v
  case case1 => exact absurd rfl hcmd
  case case2 => exact absurd rfl hstatus
  case case3 =>
    have hbit : v.extractLsb' 0 1 = BitVec.ofBool (v.getLsbD 0) :=
      BitVec.eq_of_getLsbD_eq fun i hi => by simp [Nat.lt_one_iff.1 hi]
    exact (congrArg _ hbit).symm.trans (setWidth_extract_eq_merged (by decide) v (BitVec.ofBool s.ie))
  case case4 => exact setWidth_extract_eq_merged (by decide) v s.len
  case case5 => exact setWidth_extract_eq_merged (by decide) v s.wcount
  case case6 => exact setWidth_extract_eq_merged (by decide) v s.dcount
  case case7 => exact setWidth_extract_eq_merged (by decide) v s.npts
  case case8 => exact (packAt_storeAt_same s.wt 0 v (by decide)).trans (merged_all v _).symm
  case case9 => exact (packAt_storeAt_same s.wt 1 v (by decide)).trans (merged_all v _).symm
  case case10 => exact word0_eq_merged s.shf v
  case case11 => exact word1_eq_merged s.shf v
  case case12 => exact word2_eq_merged s.shf v
  case case13 =>
    rw [writableMask_eq_zero hoff (by refine ⟨?_, ?_, ?_, ?_, ?_, ?_, ?_, ?_, ?_, ?_⟩ <;> assumption), merged_none]

theorem readRegister_writeRegister_other (s : State) (v : Word) {off off' : Nat} (hcmd : off ≠ 0x004)
    (hstatus : off ≠ 0x008) (h : off' ≠ off) :
    (s.writeRegister off v).readRegister off' = s.readRegister off' := by
  fun_cases State.writeRegister s off v
  case case1 => exact absurd rfl hcmd
  case case2 => exact absurd rfl hstatus
  case case13 => rfl
  case case8 =>
    unfold State.readRegister
    split
    case h_13 => exact absurd rfl h
    case h_14 => exact packAt_storeAt_other s.wt 0 1 v (by decide)
    all_goals rfl
  case case9 =>
    unfold State.readRegister
    split
    case h_14 => exact absurd rfl h
    case h_13 => exact packAt_storeAt_other s.wt 1 0 v (by decide)
    all_goals rfl
  all_goals
    unfold State.readRegister
    split
  any_goals exact absurd rfl h
  all_goals rfl

/-! ### A write to the window -/

/-- The window's buffers are writable in all their bits, WORDS in 11 of each word (R60 to R65). -/
theorem writableMask_buffer {off : Nat} (h : (0x100 ≤ off ∧ off < 0x120) ∨ (0x300 ≤ off ∧ off < 0x380) ∨
    (0x400 ≤ off ∧ off < 0x610) ∨ (0x800 ≤ off ∧ off < 0xA00)) : writableMask off = 0xFFFFFFFF := by
  unfold writableMask
  iterate 8 rw [if_neg (by omega)]
  split_ifs
  any_goals omega
  all_goals rfl

theorem writableMask_words {off : Nat} (h : 0x200 ≤ off ∧ off < 0x280) : writableMask off = 0x7FF := by
  unfold writableMask
  iterate 9 rw [if_neg (by omega)]
  rw [if_pos h]

theorem writableMask_reserved {off : Nat} (h : 0x100 ≤ off) (hres : reservedOffset off) : writableMask off = 0 := by
  unfold reservedOffset at hres
  unfold writableMask
  iterate 13 rw [if_neg (by omega)]

/-- An idle write stores the writable bits of its location (10_state.md section 2, R60 to R66). -/
theorem windowWord_windowWrite_same (s : State) (v : Word) {off : Nat} (hoff : off < 0x1000) (halign : off % 4 = 0)
    (hcmd : off ≠ 0x004) (hstatus : off ≠ 0x008) :
    (s.windowWrite off v).windowWord off = merged (writableMask off) v (s.windowWord off) := by
  obtain h | ⟨m, hm, rfl⟩ | ⟨i, hi, rfl⟩ | ⟨m, hm, rfl⟩ | ⟨r, hr, m, hm, rfl⟩ | ⟨m, hm, rfl⟩ | ⟨r, hr, m, hm, rfl⟩ |
    ⟨hge, h⟩ := window_cases hoff halign
  · rw [windowWrite_register s v h, windowWord_register _ h, windowWord_register s h,
      readRegister_writeRegister_same s v h hcmd hstatus]
  · rw [windowWrite_secret s v hm, windowWord_secret _ hm, writableMask_buffer (by omega), merged_all,
      packAt_storeAt_same _ _ _ (by omega)]
  · rw [windowWrite_words s v hi, windowWord_words _ hi, windowWord_words s hi, writableMask_words (by omega), wordAt,
      setIfInBounds_getD _ _ _ _ hi, if_pos rfl]
    exact setWidth_extract_eq_merged (by decide) v (wordAt s i)
  · rw [windowWrite_digits s v hm, windowWord_digits _ hm, writableMask_buffer (by omega), merged_all,
      packAt_storeAt_same _ _ _ (by omega)]
  · rw [windowWrite_coef s v hr hm, windowWord_coef _ hr hm, writableMask_buffer (by omega), merged_all,
      writeCoef_coefRow s m v hr, if_pos rfl, packAt_storeAt_same _ _ _ (by omega)]
  · rw [windowWrite_px s v hm, windowWord_px _ hm, writableMask_buffer (by omega), merged_all,
      packAt_storeAt_same _ _ _ (by omega)]
  · rw [windowWrite_py s v hr hm, windowWord_py _ hr hm, writableMask_buffer (by omega), merged_all,
      writePoint_pointRow s m v hr, if_pos rfl, packAt_storeAt_same _ _ _ (by omega)]
  · rw [s.windowWrite_reserved v h, writableMask_reserved hge h, merged_none]

/-- The rows of COEF other than row 0 are not SECRET's storage (R63). -/
theorem coefRow_of_secret {s : State} {b : Vector Byte 32} (r : Nat) :
    ({ s with secret := b }).coefRow r = if r = 0 then b else s.coefRow r := by
  by_cases hr : r = 0 <;> simp only [State.coefRow, hr, if_true, if_false]

/-- A write to SECRET's word `m` is seen there and in COEF row 0 only (R63). -/
theorem windowWord_secretWrite_other (s : State) {m : Nat} (v : Word) {off : Nat} (hoff : off < 0x1000)
    (halign : off % 4 = 0) (hsecret : off ≠ 0x100 + 4 * m) (hcoef : off ≠ 0x400 + 4 * m) :
    ({ s with secret := storeAt s.secret m v }).windowWord off = s.windowWord off := by
  generalize hb : storeAt s.secret m v = b
  refine windowWord_congr hoff halign (fun _ => rfl) (fun m' h' => hb ▸ packAt_storeAt_other _ _ _ _ (by omega))
    (fun _ _ _ => rfl) (fun _ _ => rfl) (fun r _ m' _ h' => ?_) (fun _ _ => rfl) (fun _ _ _ _ _ => rfl)
  rw [coefRow_of_secret]
  split
  · subst r hb
    exact packAt_storeAt_other _ _ _ _ (by omega)
  · rfl

theorem windowWord_coefWrite_other (s : State) {r m : Nat} (v : Word) (hm : m < 8) {off : Nat} (hoff : off < 0x1000)
    (halign : off % 4 = 0) (hne : off ≠ 0x400 + 32 * r + 4 * m) (hsecret : r = 0 → off ≠ 0x100 + 4 * m) :
    (s.writeCoef r m v).windowWord off = s.windowWord off := by
  obtain rfl | hr := Nat.eq_zero_or_pos r
  · exact windowWord_secretWrite_other s v hoff halign (hsecret rfl) hne
  have hrow := fun r' => writeCoef_coefRow s (k := r) (r := r') m v
  obtain ⟨b, hb⟩ : ∃ b, s.writeCoef r m v = { s with coef := b } := ⟨_, if_neg hr.ne'⟩
  rw [hb] at hrow ⊢
  refine windowWord_congr hoff halign (fun _ => rfl) (fun _ _ => rfl) (fun _ _ _ => rfl) (fun _ _ => rfl)
    (fun r' hr' m' hm' h' => ?_) (fun _ _ => rfl) (fun _ _ _ _ _ => rfl)
  rw [hrow r' hr']
  split
  · subst r'
    exact packAt_storeAt_other _ _ _ _ (by omega)
  · rfl

theorem windowWord_pointWrite_other (s : State) {r m : Nat} (v : Word) {off : Nat} (hoff : off < 0x1000)
    (halign : off % 4 = 0) (hne : off ≠ 0x800 + 32 * r + 4 * m) :
    (s.writePoint r m v).windowWord off = s.windowWord off := by
  have hrow := fun r' => writePoint_pointRow s (k := r) (r := r') m v
  obtain ⟨b, hb⟩ : ∃ b, s.writePoint r m v = { s with py := b } := ⟨_, rfl⟩
  rw [hb] at hrow ⊢
  refine windowWord_congr hoff halign (fun _ => rfl) (fun _ _ => rfl) (fun _ _ _ => rfl) (fun _ _ => rfl)
    (fun _ _ _ _ _ => rfl) (fun _ _ => rfl) (fun r' hr' m' hm' h' => ?_)
  rw [hrow r' hr']
  split
  · subst r'
    exact packAt_storeAt_other _ _ _ _ (by omega)
  · rfl

theorem windowWord_wordsWrite_other (s : State) {i : Nat} (x : WordIndex) {off : Nat} (hoff : off < 0x1000)
    (halign : off % 4 = 0) (hne : off ≠ 0x200 + 4 * i) :
    ({ s with words := s.words.setIfInBounds i x }).windowWord off = s.windowWord off := by
  generalize hb : s.words.setIfInBounds i x = b
  refine windowWord_congr hoff halign (fun _ => rfl) (fun _ _ => rfl) (fun i' hi' h' => ?_) (fun _ _ => rfl)
    (fun _ _ _ _ _ => rfl) (fun _ _ => rfl) (fun _ _ _ _ _ => rfl)
  rw [wordAt, ← hb, setIfInBounds_getD _ _ _ _ hi', if_neg (by omega)]

theorem windowWord_digitsWrite_other (s : State) {m : Nat} (v : Word) {off : Nat} (hoff : off < 0x1000)
    (halign : off % 4 = 0) (hne : off ≠ 0x300 + 4 * m) :
    ({ s with digits := storeAt s.digits m v }).windowWord off = s.windowWord off := by
  generalize hb : storeAt s.digits m v = b
  exact windowWord_congr hoff halign (fun _ => rfl) (fun _ _ => rfl) (fun _ _ _ => rfl)
    (fun m' h' => hb ▸ packAt_storeAt_other _ _ _ _ (by omega)) (fun _ _ _ _ _ => rfl) (fun _ _ => rfl)
    (fun _ _ _ _ _ => rfl)

theorem windowWord_pxWrite_other (s : State) {m : Nat} (v : Word) {off : Nat} (hoff : off < 0x1000)
    (halign : off % 4 = 0) (hne : off ≠ 0x600 + 4 * m) :
    ({ s with px := storeAt s.px m v }).windowWord off = s.windowWord off := by
  generalize hb : storeAt s.px m v = b
  exact windowWord_congr hoff halign (fun _ => rfl) (fun _ _ => rfl) (fun _ _ _ => rfl) (fun _ _ => rfl)
    (fun _ _ _ _ _ => rfl) (fun m' h' => hb ▸ packAt_storeAt_other _ _ _ _ (by omega)) (fun _ _ _ _ _ => rfl)

theorem writeRegister_keeps_buffers (s : State) (off : Nat) (v : Word) :
    (s.writeRegister off v).secret = s.secret ∧ (s.writeRegister off v).words = s.words ∧
      (s.writeRegister off v).digits = s.digits ∧ (s.writeRegister off v).coef = s.coef ∧
      (s.writeRegister off v).px = s.px ∧ (s.writeRegister off v).py = s.py := by
  unfold State.writeRegister
  split <;> exact ⟨rfl, rfl, rfl, rfl, rfl, rfl⟩

theorem windowWord_registerWrite_buffer (s : State) (v : Word) {off off' : Nat} (hge : 0x100 ≤ off')
    (hoff' : off' < 0x1000) (halign' : off' % 4 = 0) :
    (s.writeRegister off v).windowWord off' = s.windowWord off' := by
  obtain ⟨hsecret, hwords, hdigits, hcoef, hpx, hpy⟩ := writeRegister_keeps_buffers s off v
  refine windowWord_congr hoff' halign' (fun h => absurd hge h.not_ge) (fun _ _ => by rw [hsecret])
    (fun _ _ _ => by rw [wordAt, hwords]) (fun _ _ => by rw [hdigits]) (fun _ _ _ _ _ => ?_) (fun _ _ => by rw [hpx])
    (fun _ _ _ _ _ => ?_)
  · rw [State.coefRow, State.coefRow, hsecret, hcoef]
  · rw [State.pointRow, State.pointRow, hpy]

/-- An idle write leaves every other location alone but the other name of SECRET and COEF row 0 (R63). -/
theorem windowWord_windowWrite_other (s : State) (v : Word) {off off' : Nat} (hoff : off < 0x1000)
    (halign : off % 4 = 0) (hcmd : off ≠ 0x004) (hstatus : off ≠ 0x008) (hoff' : off' < 0x1000)
    (halign' : off' % 4 = 0) (hne : off' ≠ off) (halias : ¬ aliased off off') :
    (s.windowWrite off v).windowWord off' = s.windowWord off' := by
  unfold aliased at halias
  obtain h | ⟨m, hm, rfl⟩ | ⟨i, hi, rfl⟩ | ⟨m, hm, rfl⟩ | ⟨r, hr, m, hm, rfl⟩ | ⟨m, hm, rfl⟩ | ⟨r, hr, m, hm, rfl⟩ |
    ⟨-, h⟩ := window_cases hoff halign
  · rw [windowWrite_register s v h]
    by_cases hreg : off' < 0x100
    · rw [windowWord_register _ hreg, windowWord_register _ hreg, readRegister_writeRegister_other s v hcmd hstatus hne]
    · exact windowWord_registerWrite_buffer s v (Nat.not_lt.1 hreg) hoff' halign'
  · rw [windowWrite_secret s v hm]
    exact windowWord_secretWrite_other s v hoff' halign' hne (by omega)
  · rw [windowWrite_words s v hi]
    exact windowWord_wordsWrite_other s _ hoff' halign' hne
  · rw [windowWrite_digits s v hm]
    exact windowWord_digitsWrite_other s v hoff' halign' hne
  · rw [windowWrite_coef s v hr hm]
    exact windowWord_coefWrite_other s v hm hoff' halign' hne (by omega)
  · rw [windowWrite_px s v hm]
    exact windowWord_pxWrite_other s v hoff' halign' hne
  · rw [windowWrite_py s v hr hm]
    exact windowWord_pointWrite_other s v hoff' halign' hne
  · rw [s.windowWrite_reserved v h]

/-- Settles O17: an idle write stores its location's writable bits, touches no other location but the one R63 names
twice, and writes data only. -/
theorem writesReadBackAndLeaveTheRest : Obligations.WritesReadBackAndLeaveTheRest := by
  intro s off v rest hidle halign hcmd hstatus hevents
  have hcmd : off.toNat ≠ 0x004 := fun h => hcmd (BitVec.eq_of_toNat_eq h)
  have hstatus : off.toNat ≠ 0x008 := fun h => hstatus (BitVec.eq_of_toNat_eq h)
  refine ⟨(s.withEvents rest).windowWrite off.toNat v, ?_,
    windowWord_windowWrite_same (s.withEvents rest) v off.isLt halign hcmd hstatus,
    fun off' halign' hne halias => ?_, ?_⟩
  · rw [step_access hevents ⟨rfl, halign⟩]
    exact congrArg Host.Outcome.next (State.hostWrite_idle (s := s.withEvents rest) off.toNat v hidle)
  · exact windowWord_windowWrite_other (s.withEvents rest) v off.isLt halign hcmd hstatus off'.isLt halign'
      (fun h => hne (BitVec.eq_of_toNat_eq h)) halias
  · obtain ⟨h, -⟩ | ⟨h, -⟩ | hdata := windowWrite_cases (s.withEvents rest) off.toNat v
    · exact absurd h hcmd
    · exact absurd h hstatus
    · exact ⟨hdata.phase.trans hidle, hdata.store, hdata.env⟩

end Sys2Proof.Machine
end

section
/-! PROOFS. WL.INDEX, and WL.INDEX and WL.WORD as inverses (40_wordlist.md R103 to R107). -/

namespace Sys2Proof.Machine

open Sys2Proof.Claims

/-! ### Keys and entries -/

/-- Two lists of bytes up to 8 long without a 0 are equal when they agree, padded, on 8 positions. -/
theorem eq_of_getD_eq {v w : List Byte} (hv : v.length ≤ 8) (hw : w.length ≤ 8) (hv0 : ∀ c ∈ v, c ≠ 0)
    (hw0 : ∀ c ∈ w, c ≠ 0) (h : ∀ k < 8, v.getD k 0 = w.getD k 0) : v = w := by
  have hlen : ∀ k < 8, (k < v.length ↔ k < w.length) := by
    have hmem : ∀ u : List Byte, (∀ c ∈ u, c ≠ 0) → ∀ k, (u.getD k 0 ≠ 0 ↔ k < u.length) := by
      intro u hu k
      refine ⟨fun hk => ?_, fun hk => ?_⟩
      · by_contra hge
        exact hk (List.getD_eq_default _ _ (Nat.not_lt.1 hge))
      · rw [List.getD_eq_getElem _ _ hk]
        exact hu _ (List.getElem_mem hk)
    intro k hk
    rw [← hmem v hv0, ← hmem w hw0, h k hk]
  have hlength : v.length = w.length := by
    by_contra hne
    obtain hlt | hgt := Nat.lt_or_gt_of_ne hne
    · exact absurd ((hlen v.length (hlt.trans_le hw)).2 hlt) (lt_irrefl _)
    · exact absurd ((hlen w.length (hgt.trans_le hv)).1 hgt) (lt_irrefl _)
  refine List.ext_getElem hlength fun k hk hk' => ?_
  rw [← List.getD_eq_getElem _ 0 hk, ← List.getD_eq_getElem _ 0 hk', h k (hk.trans_le hv)]

theorem wordKey_length (wt : Vector Byte 8) : (wordKey wt).length = 8 := by simp [wordKey]

theorem wordKey_getD (wt : Vector Byte 8) {k : Nat} (hk : k < 8) : (wordKey wt).getD k 0 = lower (wt.getD k 0) := by
  simp [wordKey, Vector.getD, List.getD, hk]

/-- R104's comparison, byte for byte over 8 bytes. -/
theorem pad8_eq_wordKey_iff {w : List Byte} (hw : w.length ≤ 8) (wt : Vector Byte 8) :
    pad8 w = wordKey wt ↔ ∀ k < 8, lower (wt.getD k 0) = w.getD k 0 := by
  constructor
  · intro h k hk
    rw [← wordKey_getD wt hk, ← h, pad8_getD]
  · intro h
    have hlen : (pad8 w).length = 8 := pad8_length hw
    refine List.ext_getElem (hlen.trans (wordKey_length wt).symm) fun k hk hk' => ?_
    rw [← List.getD_eq_getElem _ 0 hk, ← List.getD_eq_getElem _ 0 hk', pad8_getD, wordKey_getD wt (hlen ▸ hk),
      h k (hlen ▸ hk)]

/-- The text in WT is the entry `i` of the ROM (R104). -/
abbrev MatchesEntry (wt : Vector Byte 8) (i : WordIndex) : Prop :=
  ∀ k < 8, lower (wt.getD k 0) = (Config.wordList.word i).getD k 0

theorem wordList_char_ne_zero (i : WordIndex) : ∀ c ∈ Config.wordList.word i, c ≠ 0 := by
  rintro c hc rfl
  exact absurd (Config.wordList.lowerCase i 0 hc).1 (by decide)

/-- A text matches one entry at most (R51). -/
theorem MatchesEntry.unique {wt : Vector Byte 8} {i j : WordIndex} (hi : MatchesEntry wt i) (hj : MatchesEntry wt j) :
    i = j :=
  Config.wordList.distinct i j (eq_of_getD_eq (Config.wordList.size i).2 (Config.wordList.size j).2
    (wordList_char_ne_zero i) (wordList_char_ne_zero j) fun k hk => (hi k hk).symm.trans (hj k hk))

/-- An entry is lower case, so folding its case changes nothing (R51, R103). -/
theorem lower_wordList_getD (i : WordIndex) (k : Nat) :
    lower ((Config.wordList.word i).getD k 0) = (Config.wordList.word i).getD k 0 := by
  obtain hk | hk := Nat.lt_or_ge k (Config.wordList.word i).length
  · have hcase := (Config.wordList.lowerCase i _ (List.getElem_mem hk)).1
    rw [List.getD_eq_getElem _ _ hk, lower, if_neg (by omega)]
  · rw [List.getD_eq_default _ _ hk]
    rfl

/-! ### The search -/

theorem mem_wordIndices (i : WordIndex) : i ∈ wordIndices :=
  List.mem_map.2 ⟨i.toNat, List.mem_range.2 i.isLt, by rw [BitVec.ofNat_toNat, BitVec.setWidth_eq]⟩

theorem matches_iff (wt : Vector Byte 8) (i : WordIndex) :
    (pad8 (Config.wordList.word i) == wordKey wt) = true ↔ MatchesEntry wt i := by
  rw [beq_iff_eq, pad8_eq_wordKey_iff (Config.wordList.size i).2]

theorem findWord_of_matches {wt : Vector Byte 8} {i : WordIndex} (h : MatchesEntry wt i) :
    findWord Config.wordList.word (wordKey wt) = some i := by
  obtain ⟨j, hj⟩ : ∃ j, findWord Config.wordList.word (wordKey wt) = some j :=
    Option.isSome_iff_exists.1 (List.find?_isSome.2 ⟨i, mem_wordIndices i, (matches_iff wt i).2 h⟩)
  have hmatch : (pad8 (Config.wordList.word j) == wordKey wt) = true :=
    List.find?_some (p := fun i => pad8 (Config.wordList.word i) == wordKey wt) hj
  rw [hj, ((matches_iff wt j).1 hmatch).unique h]

theorem findWord_of_no_match {wt : Vector Byte 8} (h : ∀ i, ¬ MatchesEntry wt i) :
    findWord Config.wordList.word (wordKey wt) = none :=
  List.find?_eq_none.2 fun i _ => mt (matches_iff wt i).1 (h i)

/-! ### WL.INDEX -/

section
variable {slot : Byte} {s : State}

theorem wlIndex_refusesSlot (h : 31 < slot.toNat) : RefusesParam (.wlIndex slot) s 0x03 :=
  congrArg (finish s) (if_pos h)

theorem State.indexWord_found {i : WordIndex} (hslot : slot.toNat ≤ 31) (h : MatchesEntry s.wt i) :
    s.indexWord Config.wordList.word slot.toNat =
      .ok { s with result := i.setWidth 32, words := s.words.setIfInBounds slot.toNat i } := by
  rw [State.indexWord, if_neg hslot.not_gt, findWord_of_matches h]

theorem State.indexWord_unknown (hslot : slot.toNat ≤ 31) (h : ∀ i, ¬ MatchesEntry s.wt i) :
    s.indexWord Config.wordList.word slot.toNat = raise .unknownWord slot.toNat 0 := by
  rw [State.indexWord, if_neg hslot.not_gt, findWord_of_no_match h]

theorem exec_wlIndex {i : WordIndex} (hslot : slot.toNat ≤ 31) (h : MatchesEntry s.wt i) :
    exec (.wlIndex slot) s =
      .next { s with
        result := i.setWidth 32
        words := s.words.setIfInBounds slot.toNat i
        done := true
        phase := .idle } :=
  congrArg (finish s) (State.indexWord_found hslot h)

theorem wlIndex_reportsUnknown (hslot : slot.toNat ≤ 31) (h : ∀ i, ¬ MatchesEntry s.wt i) :
    Reports (.wlIndex slot) s 0x01 slot.toNat 0 :=
  congrArg (finish s) (State.indexWord_unknown hslot h)

end

/-- Settles O46: the slot check, then the search, decide; the entry that matches is the one the search finds, since
the entries are distinct. -/
theorem wlIndexFindsTheWord : Obligations.WlIndexFindsTheWord := by
  refine ⟨wlIndex_encodesAs, fun slot s => ⟨wlIndex_refusesSlot, fun hslot => ⟨fun i hi => ?_, fun hnone => ?_⟩⟩⟩
  · refine ⟨_, exec_wlIndex hslot hi, BitVec.toNat_setWidth_of_le (by decide), fun j hj => ?_, rfl⟩
    exact setIfInBounds_getD _ _ _ _ hj
  · refine wlIndex_reportsUnknown hslot fun i hi => ?_
    obtain ⟨k, hk, hne⟩ := hnone i
    exact hne (hi k hk)

/-! ### Inverses -/

/-- Settles O48: WL.WORD leaves a text that matches the entry it was read from, and WL.INDEX leaves the index of the
entry that the folded text is. -/
theorem wordLookupsAreInverse : Obligations.WordLookupsAreInverse := by
  refine ⟨fun a b s u ha hb hu => ?_, fun a s u ha hclear hu herr => ?_⟩
  · obtain ⟨u', hu', htext, hframe⟩ := (wlWordWritesTheText.2 a s).2 ha
    cases hu'.symm.trans hu
    have hmatch : MatchesEntry u.wt (wordAt s a.toNat) := fun k hk => by rw [htext k hk, lower_wordList_getD]
    have herr : u.err = s.err := by simpa only using congrArg State.err hframe
    refine ⟨_, exec_wlIndex hb hmatch, BitVec.toNat_setWidth_of_le (by decide), ?_, herr⟩
    exact (setIfInBounds_getD _ _ _ _ (Nat.lt_succ_of_le hb)).trans (if_pos rfl)
  · obtain ⟨i, hi⟩ : ∃ i, MatchesEntry s.wt i := by
      by_contra hnone
      cases (wlIndex_reportsUnknown ha (not_exists.1 hnone)).symm.trans hu
      exact Bool.noConfusion herr
    cases (exec_wlIndex ha hi).symm.trans hu
    refine ⟨_, (exec_wlWord a _).trans (congrArg (finish _) (State.lookupWord_goodSlot _ _ ha)), fun k hk => ?_⟩
    have hword : wordAt { s with
        result := i.setWidth 32, words := s.words.setIfInBounds a.toNat i, done := true, phase := .idle } a.toNat = i :=
      (setIfInBounds_getD _ _ _ _ (Nat.lt_succ_of_le ha)).trans (if_pos rfl)
    rw [hi k hk]
    exact (overwrite_pad8_getD _ (Config.wordList.size _).2 hk).trans (by rw [hword])

end Sys2Proof.Machine
end

section
/-! PROOFS. DG.TODIGITS and DG.FROMDIGITS as inverses (46_digit.md R169, R172). -/

namespace Sys2Proof.Machine

open Sys2Proof.Claims

/-! ### A word index and its four characters -/

theorem digitValue_of_toNat {c : Byte} {d : Nat} (h : c.toNat = 0x30 + d) : digitValue c = d := by
  rw [digitValue, h, Nat.add_sub_cancel_left]

/-- Four characters that are a word index's digits denote it. -/
theorem goodWord_of_digits {c : Nat → Byte} {i : Nat} {x : WordIndex}
    (h : ∀ k < 4, (c (4 * i + k)).toNat = 0x30 + x.toNat / 10 ^ (3 - k) % 10) : GoodWord c i ∧ parsedWord c i = x := by
  have hlt : x.toNat < 2048 := x.isLt
  have hvalue : wordValue c i = x.toNat := by
    rw [wordValue, digitsValue, ← Nat.add_zero (4 * i), digitValue_of_toNat (h 0 (by decide)),
      digitValue_of_toNat (h 1 (by decide)), digitValue_of_toNat (h 2 (by decide)),
      digitValue_of_toNat (h 3 (by decide))]
    omega
  refine ⟨⟨fun k hk => ?_, by omega⟩, ?_⟩
  · rw [h k hk]
    omega
  · rw [parsedWord, hvalue, BitVec.ofNat_toNat, BitVec.setWidth_eq]

/-- A good word's characters are the digits of the index they denote. -/
theorem dig4_parsedWord_getD {c : Nat → Byte} {i : Nat} (h : GoodWord c i) {k : Nat} (hk : k < 4) :
    ((dig4 (parsedWord c i)).getD k 0).toNat = (c (4 * i + k)).toNat := by
  obtain ⟨hdigits, hsmall⟩ := h
  rw [dig4_getD_toNat _ hk, parsedWord_toNat hsmall]
  have h0 := hdigits 0 (by decide)
  have h1 := hdigits 1 (by decide)
  have h2 := hdigits 2 (by decide)
  have h3 := hdigits 3 (by decide)
  rw [Nat.add_zero] at h0
  simp only [wordValue, digitsValue, digitValue]
  match k, hk with
  | 0, _ => simp only [Nat.add_zero]; omega
  | 1, _ => omega
  | 2, _ => omega
  | 3, _ => omega

theorem dig4_parsedWord {c : Nat → Byte} {i : Nat} (h : GoodWord c i) : dig4 (parsedWord c i) = wordChars c i := by
  have hchar := fun k hk => BitVec.eq_of_toNat_eq (dig4_parsedWord_getD h (k := k) hk)
  refine List.ext_getElem rfl fun k hk hk' => ?_
  rw [← List.getD_eq_getElem _ 0 hk, hchar k hk]
  match k, hk with
  | 0, _ | 1, _ | 2, _ | 3, _ => rfl

/-- The digit string of the indices that good words denote is the words' characters. -/
theorem flatMap_dig4_parsedWord {c : Nat → Byte} {n : Nat} (h : ∀ i < n, GoodWord c i) :
    ((List.range n).map (parsedWord c)).flatMap dig4 = (List.range n).flatMap (wordChars c) := by
  rw [List.flatMap_map]
  exact List.flatMap_congr fun i hi => dig4_parsedWord (h i (List.mem_range.1 hi))

/-! ### DG.FROMDIGITS after DG.TODIGITS -/

/-- R172's first sentence: the digits and DCOUNT that DG.TODIGITS left determine what DG.FROMDIGITS writes. -/
theorem dgFromdigits_after_dgTodigits {s u v : State} (hcount : s.wordCount ≤ 32) (hu : exec .dgTodigits s = .next u)
    (hdigits : v.digits = u.digits) (hdcount : v.dcount = u.dcount) :
    exec .dgFromdigits v =
      .next { v with
        words := overwrite v.words ((List.range s.wordCount).map (wordAt s))
        wcount := s.wcount
        done := true
        phase := .idle } := by
  obtain ⟨u', hu', hd, hchars, -, -⟩ := (dgTodigitsWritesFourDigits.2 s).2 hcount
  cases hu'.symm.trans hu
  have hcountV : v.digitCount = 4 * s.wordCount := by rw [State.digitCount, hdcount, hd]
  have hwords : v.digitCount / 4 = s.wordCount := by omega
  have hgood : ∀ i < s.wordCount, GoodWord (digitAt v) i ∧ parsedWord (digitAt v) i = wordAt s i := fun i hi =>
    goodWord_of_digits fun k hk => by rw [digitAt, hdigits, hchars i hi k hk]
  have hparsed : (List.range s.wordCount).map (parsedWord (digitAt v)) = (List.range s.wordCount).map (wordAt s) :=
    List.map_congr_left fun i hi => (hgood i (List.mem_range.1 hi)).2
  have hwcount : BitVec.ofNat 6 s.wordCount = s.wcount := by
    rw [State.wordCount, BitVec.ofNat_toNat, BitVec.setWidth_eq]
  rw [dgFromdigits_writes (by omega) (by omega) (hwords ▸ fun i hi => (hgood i hi).1), hwords, hparsed, hwcount]

/-! ### DG.TODIGITS after DG.FROMDIGITS -/

/-- DG.FROMDIGITS leaves ERR clear only on whole words that are all good (R171). -/
theorem dgFromdigits_checks_of_err_false {s u : State} (h : exec .dgFromdigits s = .next u) (herr : u.err = false) :
    s.digitCount % 4 = 0 ∧ s.digitCount ≤ 128 ∧ ∀ i < s.digitCount / 4, GoodWord (digitAt s) i := by
  have hno : ∀ index sub, ¬ Reports .dgFromdigits s 0x0B index sub := by
    intro index sub hreport
    cases hreport.symm.trans h
    exact Bool.noConfusion herr
  have hcount : ¬ (s.digitCount % 4 ≠ 0 ∨ 128 < s.digitCount) := fun hbad => hno _ _ (dgFromdigits_refusesCount hbad)
  obtain ⟨h4, hle⟩ := not_or.1 hcount
  have h4 := not_not.1 h4
  have hle := Nat.not_lt.1 hle
  refine ⟨h4, hle, fun i => ?_⟩
  induction i using Nat.strong_induction_on with
  | _ i ih =>
    intro hi
    have hbefore : ∀ m < i, GoodWord (digitAt s) m := fun m hm => ih m hm (hm.trans hi)
    by_contra hbad
    by_cases hdigits : AllDigits (digitAt s) i
    · have hbig : 2047 < wordValue (digitAt s) i := Nat.not_le.1 fun hsmall => hbad ⟨hdigits, hsmall⟩
      exact hno i 3 (dgFromdigits_reports h4 hle hi hbefore (parseDigits_tooLarge hdigits hbig))
    · exact hno i 2 (dgFromdigits_reports h4 hle hi hbefore (parseDigits_badChar hdigits))

/-- R172's converse: what DG.FROMDIGITS accepts is the digit string of the words it writes. -/
theorem dgTodigits_after_dgFromdigits {s u : State} (h : exec .dgFromdigits s = .next u) (herr : u.err = false) :
    ∃ w, exec .dgTodigits u = .next w ∧ w.digits = s.digits ∧ w.dcount = s.dcount := by
  obtain ⟨h4, hle, hgood⟩ := dgFromdigits_checks_of_err_false h herr
  have hcount : (BitVec.ofNat 6 (s.digitCount / 4)).toNat = s.digitCount / 4 := by
    rw [BitVec.toNat_ofNat]
    omega
  have hactive : firstOf (overwrite s.words ((List.range (s.digitCount / 4)).map (parsedWord (digitAt s))))
      (s.digitCount / 4) = (List.range (s.digitCount / 4)).map (parsedWord (digitAt s)) := by
    have hfirst := firstOf_overwrite s.words (xs := (List.range (s.digitCount / 4)).map (parsedWord (digitAt s)))
      (by rw [List.length_map, List.length_range]; omega)
    rwa [List.length_map, List.length_range] at hfirst
  cases (dgFromdigits_writes h4 hle hgood).symm.trans h
  refine ⟨_, exec_dgTodigits (hcount.trans_le (by omega)), ?_, ?_⟩
  · simp only [State.activeWords, State.wordCount, hcount, hactive]
    rw [flatMap_dig4_parsedWord hgood, ← State.digitChars_eq_flatMap h4 hle]
    exact overwrite_firstOf s.digits s.digitCount
  · simp only [State.wordCount, hcount]
    rw [show 4 * (s.digitCount / 4) = s.digitCount by omega, State.digitCount, BitVec.ofNat_toNat, BitVec.setWidth_eq]

/-- Settles O51: the characters DG.TODIGITS writes are good words, and good words are the characters of the indices they
denote. -/
theorem digitRoundTrip : Obligations.DigitRoundTrip := by
  refine ⟨fun s u v hcount hu hdigits hdcount =>
    ⟨_, dgFromdigits_after_dgTodigits hcount hu hdigits hdcount, rfl, fun i hi => ?_, rfl⟩,
    fun s u _ hu herr => dgTodigits_after_dgFromdigits hu herr⟩
  exact overwrite_map_range_getD _ _ _ hi

end Sys2Proof.Machine
end

section
/-! PROOFS. The checksum as leading digest bits (41_checksum.md R109, R110). -/

namespace Sys2Proof.Machine

open Sys2Proof.Claims

/-- The leading `n` of `m` bits are the number's high part. -/
theorem take_bitsOf (v : Nat) {m n : Nat} (h : n ≤ m) : (bitsOf m v).take n = bitsOf n (v / 2 ^ (m - n)) := by
  refine List.ext_getElem (by simp [h]) fun k hk _ => ?_
  have hkn : k < n := (List.length_take_le _ _).trans_lt' hk
  simp only [bitsOf, List.getElem_take, List.getElem_map, List.getElem_range, Nat.testBit_div_two_pow]
  congr 1
  omega

theorem sha256_length (m : List Byte) : (sha256 m).length = 32 := by
  simp [sha256, Sha256.wordBytes]

/-- The checksum reads the first `L/4` bits of the digest's first byte. -/
theorem cs_eq_div (e : List Byte) (h : e.length / 4 ≤ 8) :
    cs e = ((sha256 e).getD 0 0).toNat / 2 ^ (8 - e.length / 4) := by
  obtain ⟨b, bs, hdigest⟩ : ∃ b bs, sha256 e = b :: bs :=
    List.exists_cons_of_length_pos (by rw [sha256_length]; decide)
  have hbits : slice (bytesBits (b :: bs)) 0 (e.length / 4) =
      bitsOf (e.length / 4) (b.toNat / 2 ^ (8 - e.length / 4)) := by
    rw [bytesBits_eq_joinGroups, joinGroups_cons, slice, List.drop_zero, Nat.sub_zero,
      List.take_append_of_le_length (by rwa [bitsOf_length]), take_bitsOf _ h]
  have hlt : b.toNat / 2 ^ (8 - e.length / 4) < 2 ^ (e.length / 4) := by
    rw [Nat.div_lt_iff_lt_mul (Nat.two_pow_pos _), ← pow_add, Nat.add_sub_cancel' h]
    exact b.isLt
  rw [cs, cslen, hdigest, hbits, num_bitsOf, Nat.mod_eq_of_lt hlt, List.getD_cons_zero]

/-- Settles O40: the digest is eight words of four bytes, and its first `L/4` bits are within its first byte. -/
theorem checksumIsTheLeadingDigestBits : Obligations.ChecksumIsTheLeadingDigestBits := by
  intro e hlen
  have hle : e.length ≤ 32 := le_32_of_mem_ckLens _ hlen
  exact ⟨sha256_length e, cs_eq_div e (by omega), cs_lt_two_pow e⟩

end Sys2Proof.Machine
end

section
/-! PROOFS. Random draws, and the commands that draw: SS.GENID, SH.GENCOEF and SH.SPLIT (44_shamir.md R141, R142;
45_share_codec.md R160). -/

namespace Sys2Proof.Machine

open Sys2Proof.Claims

/-! ### Draws -/

/-- One draw takes the byte at position 0 (R52). -/
theorem draw_eq (e : Env) : draw e = (drawAt e 0, drained e 1) := by
  obtain ⟨b, rest, hdraws, h⟩ | ⟨hdraws, h⟩ := draw_cases e <;> simp [h, drawAt, drained, hdraws]

theorem drawAt_drained (e : Env) (m n : Nat) : drawAt (drained e m) n = drawAt e (m + n) := by
  have hfree : e.freshDraws + (m - e.draws.length) + (n - (e.draws.length - m)) =
      e.freshDraws + (m + n - e.draws.length) := by omega
  simp only [drawAt, drained, List.length_drop, hfree, List.getD_eq_getElem?_getD, List.getElem?_drop]

theorem drained_drained (e : Env) (m n : Nat) : drained (drained e m) n = drained e (m + n) := by
  have hfree : e.freshDraws + (m - e.draws.length) + (n - (e.draws.length - m)) =
      e.freshDraws + (m + n - e.draws.length) := by omega
  simp only [drained, List.length_drop, List.drop_drop, hfree]

theorem drained_zero (e : Env) : drained e 0 = e := by simp [drained]

/-- `n` draws take the bytes at positions 0 to n−1. -/
theorem drawMany_eq (n : Nat) (e : Env) : drawMany n e = ((List.range n).map (drawAt e), drained e n) := by
  induction n generalizing e with
  | zero => simp [drawMany, drained_zero]
  | succ n ih =>
    simp only [drawMany, draw_eq, ih, drained_drained, List.range_succ_eq_map, List.map_cons, List.map_map,
      Nat.add_comm 1]
    refine congrArg (fun bs => (drawAt e 0 :: bs, drained e (n + 1))) (List.map_congr_left fun k _ => ?_)
    rw [drawAt_drained, Function.comp_apply, Nat.add_comm 1]

/-! ### SS.GENID -/

theorem exec_ssGenid (s : State) :
    exec .ssGenid s =
      .next { s with
        shf := { s.shf with id := (drawAt s.env 0 ++ drawAt s.env 1).setWidth 15 }
        env := drained s.env 2
        done := true
        phase := .idle } := by
  have hrule : exec .ssGenid s = finish s (.ok { s with
      shf := { s.shf with id := ((draw s.env).1 ++ (draw (draw s.env).2).1).setWidth 15 }
      env := (draw (draw s.env).2).2 }) := rfl
  rw [hrule, draw_eq, draw_eq, drawAt_drained, drained_drained]
  rfl

/-- Settles O57: the two bytes, joined, lose their top bit to the 15 bits of ID. -/
theorem ssGenidDrawsTheIdentifier : Obligations.SsGenidDrawsTheIdentifier := by
  refine ⟨ssGenid_encodesAs, fun s => ⟨_, exec_ssGenid s, ?_, rfl⟩⟩
  have happend : (drawAt s.env 0 ++ drawAt s.env 1).toNat = (drawAt s.env 0).toNat * 256 + (drawAt s.env 1).toNat := by
    rw [BitVec.toNat_append, ← Nat.shiftLeft_add_eq_or_of_lt (drawAt s.env 1).isLt, Nat.shiftLeft_eq]
  exact (BitVec.toNat_setWidth _ _).trans (by rw [happend])

/-! ### The rows drawn -/

theorem State.drawCoef_env (s : State) (t l : Nat) : (s.drawCoef t l).env = drained s.env ((t - 1) * l) := by
  rw [State.drawCoef, drawMany_eq]

/-- The part of the drawn bytes that goes to row `r + 1`. -/
theorem drawn_row (e : Env) {n l r : Nat} (h : r * l + l ≤ n) :
    (((List.range n).map (drawAt e)).drop (r * l)).take l = (List.range l).map fun j => drawAt e (r * l + j) := by
  refine List.ext_getElem ?_ fun j _ _ => ?_
  · simp only [List.length_take, List.length_drop, List.length_map, List.length_range]
    omega
  · simp

theorem State.drawCoef_secret (s : State) (t l : Nat) : (s.drawCoef t l).secret = s.secret := by
  simp only [State.drawCoef]

theorem State.drawCoef_pointX (s : State) (t l i : Nat) : (s.drawCoef t l).pointX i = s.pointX i := by
  simp only [State.pointX, State.drawCoef]

theorem State.drawCoef_pyAt (s : State) (t l i j : Nat) : pyAt (s.drawCoef t l) i j = pyAt s i j := by
  simp only [pyAt, State.pointRow, State.drawCoef]

/-- Coefficients after the draws: those of rows 1 to t−1 below `l` are drawn in order (R141). -/
theorem State.drawCoef_coefByte (s : State) {t l k j : Nat} (hk : k < 16) (hj : j < 32) :
    (s.drawCoef t l).coefByte k j = drawnCoef s t l k j := by
  cases k with
  | zero =>
    rw [drawnCoef, if_neg (by omega), State.coefByte, State.coefByte, State.coefRow, State.coefRow, if_pos rfl,
      if_pos rfl, State.drawCoef_secret]
  | succ r =>
    have hr : r < 15 := by omega
    have hrow : (s.drawCoef t l).coefRow (r + 1) =
        if r + 1 < t then overwrite (s.coefRow (r + 1)) (((drawMany ((t - 1) * l) s.env).1.drop (r * l)).take l)
        else s.coefRow (r + 1) := by
      simp [State.drawCoef, State.coefRow, Vector.getD, hr]
    rw [State.coefByte, hrow, drawMany_eq, drawnCoef, State.coefByte]
    by_cases ht : r + 1 < t
    · have hfit : r * l + l ≤ (t - 1) * l := by
        rw [← Nat.succ_mul]
        exact Nat.mul_le_mul_right l (by omega)
      rw [if_pos ht, drawn_row s.env hfit, overwrite_getD _ _ _ _ hj, List.length_map, List.length_range]
      refine ite_congr (propext ⟨fun h => ⟨by omega, ht, h⟩, fun h => h.2.2⟩) (fun hjl => ?_) fun _ => rfl
      simp [List.getD, hjl.2.2]
    · rw [if_neg ht, if_neg (by omega)]

/-! ### SH.GENCOEF -/

section
variable {t n : Byte} {s : State}

theorem shGencoef_refusesThreshold (ht : ¬ thresholdLegal t.toNat) : RefusesParam (.shGencoef t) s 0x01 :=
  congrArg (finish s) (if_pos ht)

theorem shGencoef_refusesLen (ht : thresholdLegal t.toNat) (hlen : ¬ lenLegal s.byteLen) :
    RefusesParam (.shGencoef t) s 0x10 :=
  congrArg (finish s) ((if_neg (not_not_intro ht)).trans (if_pos hlen))

theorem exec_shGencoef (ht : thresholdLegal t.toNat) (hlen : lenLegal s.byteLen) :
    exec (.shGencoef t) s = .next (s.drawCoef t.toNat s.byteLen).succeed :=
  congrArg (finish s) ((if_neg (not_not_intro ht)).trans (if_neg (not_not_intro hlen)))

theorem shSplit_refusesThreshold (ht : ¬ thresholdLegal t.toNat) : RefusesParam (.shSplit t n) s 0x01 :=
  congrArg (finish s) (if_pos ht)

theorem shSplit_refusesCount (ht : thresholdLegal t.toNat) (hn : n.toNat < 1 ∨ 16 < n.toNat ∨ n.toNat < t.toNat) :
    RefusesParam (.shSplit t n) s 0x02 :=
  congrArg (finish s) ((if_neg (not_not_intro ht)).trans (if_pos hn))

theorem shSplit_refusesLen (ht : thresholdLegal t.toNat) (hn : ¬ (n.toNat < 1 ∨ 16 < n.toNat ∨ n.toNat < t.toNat))
    (hlen : ¬ lenLegal s.byteLen) : RefusesParam (.shSplit t n) s 0x10 :=
  congrArg (finish s) ((if_neg (not_not_intro ht)).trans ((if_neg hn).trans (if_pos hlen)))

theorem exec_shSplit (ht : thresholdLegal t.toNat) (hn : ¬ (n.toNat < 1 ∨ 16 < n.toNat ∨ n.toNat < t.toNat))
    (hlen : lenLegal s.byteLen) :
    exec (.shSplit t n) s =
      .next ((s.drawCoef t.toNat s.byteLen).fillPoints t.toNat n.toNat s.byteLen).succeed :=
  congrArg (finish s)
    ((if_neg (not_not_intro ht)).trans ((if_neg hn).trans (if_neg (not_not_intro hlen))))

end

/-- Settles O34: past the two checks the rows are drawn, which is all the command writes. -/
theorem shGencoefDrawsTheRows : Obligations.ShGencoefDrawsTheRows := by
  refine ⟨shGencoef_encodesAs, fun t s => ⟨shGencoef_refusesThreshold, fun ht ht' => shGencoef_refusesLen ⟨ht, ht'⟩,
    fun ht ht' hlen hlen' => ⟨_, exec_shGencoef ⟨ht, ht'⟩ ⟨hlen, hlen'⟩, fun k hk j hj => ?_, ?_⟩⟩⟩
  · exact s.drawCoef_coefByte hk hj
  · rw [← State.drawCoef_env]
    rfl

/-! ### SH.SPLIT -/

/-- A polynomial's value reads its coefficients below the threshold only. -/
theorem polyAt_congr {c d : Nat → Byte} {t : Nat} (h : ∀ k < t, c k = d k) (x : Byte) : polyAt c t x = polyAt d t x :=
  congrArg gsum (List.map_congr_left fun k hk => by rw [h k (List.mem_range.1 hk)])

theorem State.fillPoints_pointX (s : State) (t n l : Nat) {i : Nat} (hi : i < 16) :
    (s.fillPoints t n l).pointX i = if i < n then BitVec.ofNat 8 (i + 1) else s.pointX i := by
  simp [State.fillPoints, State.pointX, Vector.getD, hi]

theorem State.fillPoints_pyAt (s : State) (t n l : Nat) {i j : Nat} (hi : i < 16) (hj : j < 32) :
    pyAt (s.fillPoints t n l) i j =
      if i < n ∧ j < l then polyAt (fun k => s.coefByte k j) t (BitVec.ofNat 8 (i + 1)) else pyAt s i j := by
  have hrow : (s.fillPoints t n l).pointRow i =
      if i < n then overwrite (s.pointRow i) (s.evalBytes t (BitVec.ofNat 8 (i + 1)) l) else s.pointRow i := by
    simp [State.fillPoints, State.pointRow, Vector.getD, hi]
  rw [pyAt, hrow]
  by_cases hin : i < n
  · rw [if_pos hin, overwrite_getD _ _ _ _ hj, s.evalBytes_length]
    exact ite_congr (propext (and_iff_right hin).symm) (fun h => s.evalBytes_getD _ _ h.2) fun _ => rfl
  · rw [if_neg hin, if_neg fun h => hin h.1]

theorem State.fillPoints_coefByte (s : State) (t n l k j : Nat) :
    (s.fillPoints t n l).coefByte k j = s.coefByte k j := by
  simp only [State.coefByte, State.coefRow, State.fillPoints]

theorem State.succeed_coefByte (s : State) (k j : Nat) : s.succeed.coefByte k j = s.coefByte k j := rfl

theorem State.succeed_pointX (s : State) (i : Nat) : s.succeed.pointX i = s.pointX i := rfl

theorem State.succeed_pyAt (s : State) (i j : Nat) : pyAt s.succeed i j = pyAt s i j := rfl

/-- Settles O35: past the three checks the rows are drawn as by SH.GENCOEF and the shares evaluated from them. -/
theorem shSplitWritesTheShares : Obligations.ShSplitWritesTheShares := by
  refine ⟨shSplit_encodesAs, fun t n s => ⟨shSplit_refusesThreshold, fun ht ht' => shSplit_refusesCount ⟨ht, ht'⟩,
    fun ht htn hn => shSplit_refusesLen ⟨ht, htn.trans hn⟩ (by omega), fun ht htn hn hlen hlen' => ?_⟩⟩
  refine ⟨_, exec_shSplit ⟨ht, htn.trans hn⟩ (by omega) ⟨hlen, hlen'⟩, fun k hk j hj => ?_, fun i hi => ?_,
    fun i hi j hj => ?_, ?_, ?_⟩
  · rw [State.succeed_coefByte, State.fillPoints_coefByte, s.drawCoef_coefByte hk hj]
  · rw [State.succeed_pointX, State.fillPoints_pointX _ _ _ _ hi, apply_ite BitVec.toNat, BitVec.toNat_ofNat,
      Nat.mod_eq_of_lt (by omega), State.drawCoef_pointX]
  · rw [State.succeed_pyAt, State.fillPoints_pyAt _ _ _ _ hi hj]
    refine ite_congr rfl (fun _ => ?_) fun _ => s.drawCoef_pyAt _ _ _ _
    exact polyAt_congr (fun k hk => s.drawCoef_coefByte (by omega) hj) _
  · exact Nat.mod_eq_of_lt (show n.toNat < 32 by omega)
  · rw [← State.drawCoef_env]
    simp only [State.succeed, State.fillPoints, State.drawCoef]

end Sys2Proof.Machine
end

section
/-! PROOFS. Interpolation at 0 over the field of bytes: any `t` points of one polynomial give its constant term
(44_shamir.md R145, R146, R148). -/

namespace Sys2Proof.Machine

open Sys2Proof.Claims Polynomial

/-! ### The residues modulo POLY are a field -/

/-- Every residue is a byte's: sums of bytes are bytes, and so is X times a byte. -/
theorem byteClass_surjective : Function.Surjective byteClass := by
  intro z
  obtain ⟨p, rfl⟩ := AdjoinRoot.mk_surjective z
  induction p using Polynomial.induction_on with
  | C a =>
    obtain rfl | rfl : a = 0 ∨ a = 1 := by revert a; decide
    · exact ⟨0#8, by simp⟩
    · exact ⟨1#8, by simp⟩
  | add p q hp hq =>
    obtain ⟨a, ha⟩ := hp
    obtain ⟨b, hb⟩ := hq
    exact ⟨a ^^^ b, by rw [byteClass_xor, ha, hb, map_add]⟩
  | monomial n c ih =>
    obtain ⟨a, ha⟩ := ih
    exact ⟨gdouble a, by rw [byteClass_gdouble, ha, pow_succ, ← mul_assoc, map_mul _ _ X, AdjoinRoot.mk_X]⟩

theorem polyModulus_prime : Prime polyModulus := by
  have hnontrivial := byteClass_nontrivial
  refine ⟨polyModulus_monic.ne_zero, fun hunit => ?_, fun p q hdvd => ?_⟩
  · have hzero : AdjoinRoot.mk polyModulus 1 = 0 := AdjoinRoot.mk_eq_zero.2 hunit.dvd
    exact one_ne_zero ((map_one (AdjoinRoot.mk polyModulus)).symm.trans hzero)
  · rw [← AdjoinRoot.mk_eq_zero, map_mul] at hdvd
    rw [← AdjoinRoot.mk_eq_zero, ← AdjoinRoot.mk_eq_zero (g := q)]
    obtain ⟨a, ha⟩ := byteClass_surjective (AdjoinRoot.mk polyModulus p)
    refine or_iff_not_imp_left.2 fun hp => ?_
    have ha0 : a ≠ 0 := fun h => hp (by rw [← ha, h, byteClass_eq_zero_iff])
    exact ((ha ▸ isUnit_byteClass ha0).mul_right_eq_zero).1 hdvd

theorem polyModulus_irreducible : Fact (Irreducible polyModulus) := ⟨polyModulus_prime.irreducible⟩

/-! ### The model's interpolation formula as residues -/

/-- A product under `gmul` is a product of residues. -/
theorem byteClass_gprod (xs : List Byte) : byteClass (gprod xs) = (xs.map byteClass).prod := by
  rw [List.prod_eq_foldl, List.foldl_map, gprod, ← byteClass_one]
  exact (List.foldl_hom byteClass fun a b => (byteClass_gmul a b).symm).symm

/-- One factor of a Lagrange basis polynomial, at 0 and in characteristic 2 (R145). -/
theorem eval_zero_basisDivisor {K : Type*} [Field K] [CharP K 2] (x y : K) :
    (Lagrange.basisDivisor x y).eval 0 = y * (y + x)⁻¹ := by
  rw [Lagrange.basisDivisor, eval_mul, eval_C, eval_sub, eval_X, eval_C, zero_sub, CharTwo.neg_eq,
    CharTwo.sub_eq_add, mul_comm, add_comm]

/-- The Lagrange interpolation at 0 of a polynomial of degree below the number of nodes is its constant term. -/
theorem coeff_zero_eq_sum_nodes {K : Type*} [Field K] [CharP K 2] {f : K[X]} {n : Nat} {v : Nat → K}
    (hv : Set.InjOn v (Finset.range n)) (hf : f.degree < n) :
    f.coeff 0 = ∑ i ∈ Finset.range n, f.eval (v i) * ∏ m ∈ (Finset.range n).erase i, v m * (v m + v i)⁻¹ := by
  have hinterp := Lagrange.eq_interpolate hv ((Finset.card_range n).symm ▸ hf)
  rw [coeff_zero_eq_eval_zero]
  conv_lhs => rw [hinterp]
  simp only [Lagrange.interpolate_apply, eval_finsetSum, eval_mul, eval_C, Lagrange.basis, eval_prod,
    eval_zero_basisDivisor]

theorem byteClass_charTwo : CharP (AdjoinRoot polyModulus) 2 := by
  have hnontrivial := byteClass_nontrivial
  refine CharTwo.of_one_ne_zero_of_two_eq_zero one_ne_zero ?_
  calc (2 : AdjoinRoot polyModulus) = byteClass 1#8 + byteClass 1#8 := by rw [byteClass_one, one_add_one_eq_two]
    _ = 0 := by rw [← byteClass_xor, BitVec.xor_self, byteClass_zero]

/-- Inverses of bytes are inverses of residues, 0 having the inverse 0 on both sides. -/
theorem byteClass_ginv_mul (a : Byte) {z : AdjoinRoot polyModulus} (hz : byteClass a * z = 1) :
    byteClass (ginv a) = z := by
  have hne : a ≠ 0 := by
    rintro rfl
    have hnontrivial := byteClass_nontrivial
    exact zero_ne_one ((zero_mul z).symm.trans (byteClass_zero ▸ hz))
  have hinv : byteClass (ginv a) * byteClass a = 1 := by
    rw [← byteClass_gmul, gmul_comm, byteClass_eq_one_iff, gmul_ginv hne]
  calc byteClass (ginv a) = byteClass (ginv a) * (byteClass a * z) := by rw [hz, mul_one]
    _ = z := by rw [← mul_assoc, hinv, one_mul]

/-- A polynomial's values are those of the polynomial of its coefficients' residues. -/
noncomputable def classPoly (c : Nat → Byte) (t : Nat) : (AdjoinRoot polyModulus)[X] :=
  ∑ k ∈ Finset.range t, C (byteClass (c k)) * X ^ k

theorem eval_classPoly (c : Nat → Byte) (t : Nat) (x : Byte) :
    (classPoly c t).eval (byteClass x) = byteClass (polyAt c t x) := by
  simp [classPoly, byteClass_polyAt, eval_finsetSum]

theorem coeff_classPoly (c : Nat → Byte) (t k : Nat) :
    (classPoly c t).coeff k = if k < t then byteClass (c k) else 0 := by
  simp [classPoly, coeff_X_pow]

theorem degree_classPoly_lt (c : Nat → Byte) (t : Nat) : (classPoly c t).degree < t := by
  refine (degree_lt_iff_coeff_zero _ _).2 fun k hk => ?_
  rw [coeff_classPoly, if_neg hk.not_gt]

theorem toFinset_filter_range_ne (n i : Nat) : ((List.range n).filter (· ≠ i)).toFinset = (Finset.range n).erase i := by
  ext m
  simp [and_comm]

/-- The model's formula as a sum over residues. -/
theorem byteClass_lagrangeAtZero (ps : List (Byte × Byte)) :
    byteClass (lagrangeAtZero ps) = ∑ i ∈ Finset.range ps.length, byteClass (ps.getD i (0, 0)).2 *
      ∏ m ∈ (Finset.range ps.length).erase i, byteClass (ps.getD m (0, 0)).1 *
        byteClass (ginv (gadd (ps.getD m (0, 0)).1 (ps.getD i (0, 0)).1)) := by
  have hprod : ∀ (f : Nat → Byte) (i : Nat),
      byteClass (gprod (((List.range ps.length).filter (· ≠ i)).map f)) =
        ∏ m ∈ (Finset.range ps.length).erase i, byteClass (f m) := fun f i => by
    rw [byteClass_gprod, List.map_map, ← toFinset_filter_range_ne,
      List.prod_toFinset _ (List.nodup_range.filter _)]
    rfl
  rw [lagrangeAtZero, byteClass_gsum, List.map_map]
  refine congrArg (fun f => ((List.range ps.length).map f).sum) (funext fun i => ?_)
  simp only [Function.comp_apply, byteClass_gmul, hprod]

/-- Any `t` points with distinct x of a polynomial of `t` coefficients rebuild its constant term (R148). -/
theorem lagrangeAtZero_polyAt {ps : List (Byte × Byte)} {c : Nat → Byte} {t : Nat} (ht : 1 ≤ t)
    (hlen : ps.length = t) (hnodup : (ps.map Prod.fst).Nodup) (hval : ∀ p ∈ ps, p.2 = polyAt c t p.1) :
    lagrangeAtZero ps = c 0 := by
  have hfield := polyModulus_irreducible
  have hchar := byteClass_charTwo
  subst hlen
  have hx : ∀ i (hi : i < ps.length), ps.getD i (0, 0) = ps[i] := fun i hi => List.getD_eq_getElem ps _ hi
  have hinj : Set.InjOn (fun i => byteClass (ps.getD i (0, 0)).1) (Finset.range ps.length) := by
    intro i hi m hm him
    have hi' := Finset.mem_range.1 hi
    have hm' := Finset.mem_range.1 hm
    have hfst := byteClass_injective him
    rw [hx i hi', hx m hm'] at hfst
    exact (hnodup.getElem_inj_iff (hi := by simpa using hi') (hj := by simpa using hm')).1 (by simpa using hfst)
  refine byteClass_injective ?_
  have hcoeff := coeff_zero_eq_sum_nodes hinj (degree_classPoly_lt c ps.length)
  rw [coeff_classPoly, if_pos (by omega)] at hcoeff
  rw [hcoeff, byteClass_lagrangeAtZero]
  refine Finset.sum_congr rfl fun i hi => ?_
  have hi' := Finset.mem_range.1 hi
  rw [eval_classPoly, hx i hi', hval _ (List.getElem_mem hi')]
  refine congrArg _ (Finset.prod_congr rfl fun m hm => congrArg _ (byteClass_ginv_mul _ ?_))
  obtain ⟨hne, hm⟩ := Finset.mem_erase.1 hm
  rw [byteClass_gadd]
  refine mul_inv_cancel₀ fun hzero => hne ?_
  have hsame := CharTwo.add_eq_zero.1 hzero
  rw [← hx i hi'] at hsame
  exact hinj hm hi hsame

end Sys2Proof.Machine
end

section
/-! PROOFS. Shamir correctness (44_shamir.md R148). -/

namespace Sys2Proof.Machine

open Sys2Proof.Claims

section
variable {f : Nat → Point} {ks : List Nat}

theorem firstSlots_pairwise (hsorted : ks.Pairwise (· < ·)) : (firstSlots f ks).Pairwise (· < ·) :=
  hsorted.sublist List.filter_sublist

/-- No two first slots have the same x. -/
theorem firstSlots_nodup_x (hsorted : ks.Pairwise (· < ·)) : ((firstSlots f ks).map fun k => (f k).x).Nodup := by
  refine List.pairwise_map.2 ((firstSlots_pairwise hsorted).imp_of_mem fun {m k} hm hk hlt => ?_)
  exact (mem_firstSlots.1 hk).2 m (mem_firstSlots.1 hm).1 hlt

/-- There are as many first slots as distinct x. -/
theorem firstSlots_length (hsorted : ks.Pairwise (· < ·)) :
    (firstSlots f ks).length = (ks.map fun k => (f k).x).toFinset.card := by
  have hsame : ((firstSlots f ks).map fun k => (f k).x).toFinset = (ks.map fun k => (f k).x).toFinset := by
    ext x
    simp only [List.mem_toFinset, List.mem_map]
    constructor
    · rintro ⟨k, hk, rfl⟩
      exact ⟨k, (mem_firstSlots.1 hk).1, rfl⟩
    · rintro ⟨k, hk, rfl⟩
      exact exists_firstSlot hk
  rw [← hsame, List.toFinset_card_of_nodup (firstSlots_nodup_x hsorted), List.length_map]

end

section
variable {s v : State} {t : Byte}

/-- Points of one polynomial never disagree. -/
theorem noConflict_of_points {l : Nat} (hl : v.byteLen = l)
    (hy : ∀ k < v.npts.toNat, ∀ j < l, pyAt v k j = s.peval t.toNat (v.pointX k) j) :
    ∀ k < v.npts.toNat, ¬ conflictsAt v k := by
  rintro k hk ⟨m, hmk, hx, hne⟩
  refine hne (List.map_congr_left fun j hj => ?_)
  have hj' : j < l := hl ▸ List.mem_range.1 hj
  rw [hy m (by omega) j hj', hy k hk j hj', hx]

/-- The first `t` fresh points of a polynomial of `t` coefficients give back its constant term. -/
theorem lagrangeAtZero_freshSlots {j : Nat} (ht : 1 ≤ t.toNat) (henough : t.toNat ≤ (freshSlots v).length)
    (hy : ∀ k < v.npts.toNat, pyAt v k j = s.peval t.toNat (v.pointX k) j) :
    lagrangeAtZero (((freshSlots v).take t.toNat).map fun k => (v.pointX k, pyAt v k j)) = secretAt s j := by
  have hnodup : ((freshSlots v).map v.pointX).Nodup := by
    rw [← firstSlots_range]
    exact firstSlots_nodup_x (f := v.slotPoint) List.pairwise_lt_range
  refine lagrangeAtZero_polyAt (c := fun k => s.coefByte k j) ht ?_ ?_ fun p hp => ?_
  · rw [List.length_map, List.length_take, Nat.min_eq_left henough]
  · rw [List.map_map]
    exact hnodup.sublist ((List.take_sublist _ _).map _)
  · obtain ⟨k, hk, rfl⟩ := List.mem_map.1 hp
    have hmem := (List.mem_filter.1 (List.mem_of_mem_take hk)).1
    exact (hy k (List.mem_range.1 hmem)).trans (hornerEqualsThePolynomialSum _ _ _ _)

end

/-- Settles O39: points of one polynomial never conflict, so SH.INTERP gets as many distinct points as there are
distinct x, and any `t` of them rebuild the constant term. -/
theorem anyThresholdOfPointsRebuildsTheSecret : Obligations.AnyThresholdOfPointsRebuildsTheSecret := by
  intro s v t ht ht' hlen hl hl' hn hpoints
  have hbyteLen : v.byteLen = s.byteLen := congrArg BitVec.toNat hlen
  have hclean := noConflict_of_points hbyteLen fun k hk => (hpoints k hk).2
  have hcard : (freshSlots v).length = ((List.range v.npts.toNat).map v.pointX).toFinset.card := by
    rw [← firstSlots_range]
    exact firstSlots_length (f := v.slotPoint) List.pairwise_lt_range
  obtain ⟨-, -, -, hrun⟩ := shInterpInterpolatesAtZero.2 t v
  obtain ⟨-, hfew, henough⟩ := hrun ht ht' hn (hbyteLen ▸ hl) (hbyteLen ▸ hl')
  rw [← hcard]
  refine ⟨fun h => ?_, hfew hclean⟩
  obtain ⟨u, hexec, hsecret, hframe⟩ := henough hclean h
  refine ⟨u, hexec, fun j hj => (hsecret j hj).trans ?_, hframe⟩
  rw [hbyteLen]
  exact ite_congr rfl (fun hjl => lagrangeAtZero_freshSlots ht h fun k hk => (hpoints k hk).2 j hjl) fun _ => rfl

end Sys2Proof.Machine
end

section
/-! PROOFS. A share's bit string, bit by bit, and SS.ENCODE (45_share_codec.md R153 to R155, R157). -/

namespace Sys2Proof.Machine

open Sys2Proof.Claims

/-! ### The bits of a share -/

theorem map_range_add {α : Type} (g : Nat → α) (a b : Nat) :
    (List.range (a + b)).map g = (List.range a).map g ++ (List.range b).map fun k => g (a + k) := by
  rw [List.range_add, List.map_append, List.map_map]
  rfl

theorem getD_map_range {α : Type} (g : Nat → α) (d : α) {n k : Nat} (h : k < n) :
    ((List.range n).map g).getD k d = g k := by
  simp [List.getD, h]

/-- The fields of a share's header: first bit, width and number (the position table of R153). -/
def headerFields (f : ShareFields) : List (Nat × Nat × Nat) :=
  [(0, 15, f.id.toNat), (15, 5, f.ie.toNat), (20, 4, f.gi.toNat), (24, 4, f.gt.toNat - 1), (28, 4, f.gc.toNat - 1),
    (32, 4, f.mi.toNat), (36, 4, f.mt.toNat - 1), (40, 4, 0)]

theorem shareHeader_eq (f : ShareFields) : shareHeader f = (headerFields f).flatMap fun x => bitsOf x.2.1 x.2.2 := by
  simp [shareHeader, headerFields, bitsOf, zeros]

section
variable (f : ShareFields) (value : List Byte)

/-- A header field's bits, most significant first. -/
theorem messageBit_field : ∀ x ∈ headerFields f,
    ((List.range x.2.1).map fun k => messageBit f value (x.1 + k)) = bitsOf x.2.1 x.2.2 := by
  simp only [headerFields, List.forall_mem_cons, List.not_mem_nil, false_imp_iff, implies_true, and_true, bitsOf]
  refine ⟨?_, ?_, ?_, ?_, ?_, ?_, ?_, ?_⟩
  all_goals
    refine List.map_congr_left fun k hk => ?_
    have hk := List.mem_range.1 hk
    simp (disch := omega) only [messageBit, if_pos, if_neg, Nat.zero_testBit]
  all_goals
    congr 1
    omega

theorem map_messageBit_header : (List.range 44).map (messageBit f value) = shareHeader f := by
  have hfields := messageBit_field f value
  simp only [headerFields, List.forall_mem_cons, List.not_mem_nil, false_imp_iff, implies_true, and_true] at hfields
  obtain ⟨hid, hie, hgi, hgt, hgc, hmi, hmt, hreserved⟩ := hfields
  rw [shareHeader_eq, headerFields]
  simp only [List.flatMap_cons, List.flatMap_nil, ← hid, ← hie, ← hgi, ← hgt, ← hgc, ← hmi, ← hmt, ← hreserved]
  rfl

/-- The pad bits are zeros. -/
theorem map_messageBit_pad :
    ((List.range (value.length / 4)).map fun k => messageBit f value (44 + k)) = zeros (value.length / 4) := by
  refine List.eq_replicate_iff.2 ⟨by simp, fun b hb => ?_⟩
  obtain ⟨k, hk, rfl⟩ := List.mem_map.1 hb
  have hk := List.mem_range.1 hk
  simp (disch := omega) only [messageBit, if_pos, if_neg]

/-- The value's bits, byte 0 first, each byte most significant bit first. -/
theorem messageBit_value (k : Nat) :
    messageBit f value (44 + value.length / 4 + k) = (value.getD (k / 8) 0).getLsbD (7 - k % 8) := by
  simp (disch := omega) only [messageBit, if_neg, Nat.add_sub_cancel_left]

theorem map_messageBit_value :
    ((List.range (8 * value.length)).map fun k => messageBit f value (44 + value.length / 4 + k)) =
      bytesBits value := by
  refine List.ext_getElem (by simp) fun k hk hk' => ?_
  rw [List.getElem_map, List.getElem_range, messageBit_value, ← List.getD_eq_getElem _ false hk',
    bytesBits_eq_joinGroups, joinGroups_getD (by decide)]

/-- `messageBit` reads the message (R153). -/
theorem map_messageBit :
    (List.range (shareMessageLen value.length)).map (messageBit f value) = shareMessage f value := by
  rw [shareMessageLen, map_range_add, map_range_add, map_messageBit_header, map_messageBit_pad, map_messageBit_value,
    shareMessage]

theorem shareMessage_length : (shareMessage f value).length = shareMessageLen value.length := by
  rw [← map_messageBit, List.length_map, List.length_range]

theorem shareBits_length : (shareBits f value).length = shareMessageLen value.length + 33 := by
  simp [shareBits, shareMessage_length]

/-- `shareBit` reads the share's bit string (R153). -/
theorem shareBits_getD {p : Nat} (hp : p < shareMessageLen value.length + 33) :
    (shareBits f value).getD p false = shareBit f value p := by
  have hmsg := shareMessage_length f value
  rw [shareBit, ← shareMessageLen, map_messageBit, shareBits, List.append_assoc]
  split_ifs with hlt heq
  · rw [List.getD_append _ _ _ _ (by omega), ← map_messageBit, getD_map_range _ _ hlt]
  · rw [List.getD_append_right _ _ _ _ (by omega), hmsg, heq, Nat.sub_self]
    rfl
  · rw [List.getD_append_right _ _ _ _ (by omega), hmsg,
      List.getD_append_right _ _ _ _ (by rw [zeros_length]; omega), zeros_length, bitsOf_getD _ _ (by omega)]
    rfl

end

/-! ### The words of a share -/

/-- A share is a whole number of words (R155). -/
theorem shareWordCount_eq : ∀ l ∈ Config.mnLens, 11 * shareWordCount l = shareMessageLen l + 33 := by decide

theorem shareWords_length (f : ShareFields) (value : List Byte) :
    (shareWords f value).length = shareWordCount value.length := by
  simp [shareWords]

/-- Bit `b` of word `i` of a share. -/
theorem shareWords_getLsbD (f : ShareFields) {value : List Byte} (hl : value.length ∈ Config.mnLens) {i b : Nat}
    (hi : i < shareWordCount value.length) (hb : b < 11) :
    ((shareWords f value).getD i 0).getLsbD b = shareBit f value (11 * i + (10 - b)) := by
  have hwords := shareWordCount_eq _ hl
  rw [shareWords, sliceWords_eq_cutGroups,
    cutGroups_getD_getLsbD _ (by rw [shareBits_length]; omega) hi hb, shareBits_getD f value (by omega)]

theorem shareWordCount_le : ∀ l ∈ Config.mnLens, shareWordCount l ≤ 31 := by decide

/-! ### SS.ENCODE -/

section
variable {s : State} (hlen : s.byteLen ∈ Config.mnLens) (hgc : ¬ (s.shf.gc.toNat < 1 ∨ 16 < s.shf.gc.toNat))
  (hgt : ¬ (s.shf.gt.toNat < 1 ∨ 16 < s.shf.gt.toNat)) (hmt : ¬ (s.shf.mt.toNat < 1 ∨ 16 < s.shf.mt.toNat))
  (hgi : ¬ s.shf.gc.toNat ≤ s.shf.gi.toNat)

theorem ssEncode_refusesLen (hno : s.byteLen ∉ Config.mnLens) : RefusesParam .ssEncode s 0x10 :=
  congrArg (finish s) (if_pos hno)

include hlen hgc

theorem ssEncode_refusesGroupThreshold (hno : s.shf.gt.toNat < 1 ∨ 16 < s.shf.gt.toNat) :
    RefusesParam .ssEncode s 0x22 :=
  congrArg (finish s) ((if_neg (not_not_intro hlen)).trans ((if_neg hgc).trans (if_pos hno)))

include hgt

theorem ssEncode_refusesMemberThreshold (hno : s.shf.mt.toNat < 1 ∨ 16 < s.shf.mt.toNat) :
    RefusesParam .ssEncode s 0x25 :=
  congrArg (finish s) ((if_neg (not_not_intro hlen)).trans ((if_neg hgc).trans ((if_neg hgt).trans (if_pos hno))))

include hmt

theorem ssEncode_refusesGroupIndex (hno : s.shf.gc.toNat ≤ s.shf.gi.toNat) : RefusesParam .ssEncode s 0x21 :=
  congrArg (finish s) ((if_neg (not_not_intro hlen)).trans ((if_neg hgc).trans ((if_neg hgt).trans
    ((if_neg hmt).trans (if_pos hno)))))

include hgi

theorem ssEncode_refusesThresholdAboveCount (hno : s.shf.gc.toNat < s.shf.gt.toNat) : RefusesParam .ssEncode s 0x22 :=
  congrArg (finish s) ((if_neg (not_not_intro hlen)).trans ((if_neg hgc).trans ((if_neg hgt).trans
    ((if_neg hmt).trans ((if_neg hgi).trans (if_pos hno))))))

theorem exec_ssEncode (hgtgc : ¬ s.shf.gc.toNat < s.shf.gt.toNat) :
    exec .ssEncode s = .next { s with
      words := overwrite s.words (shareWords s.shf s.secretBytes)
      wcount := BitVec.ofNat 6 (shareWordCount s.byteLen)
      done := true
      phase := .idle } :=
  congrArg (finish s) ((if_neg (not_not_intro hlen)).trans ((if_neg hgc).trans ((if_neg hgt).trans
    ((if_neg hmt).trans ((if_neg hgi).trans (if_neg hgtgc))))))

end

/-- SS.ENCODE where its checks pass. -/
theorem exec_ssEncode_of_encodable {s : State} (h : encodable s) :
    exec .ssEncode s = .next { s with
      words := overwrite s.words (shareWords s.shf s.secretBytes)
      wcount := BitVec.ofNat 6 (shareWordCount s.byteLen)
      done := true
      phase := .idle } := by
  obtain ⟨hlen, hgc, hgc', hgt, hgt', hmt, hmt', hgi, hgtgc⟩ := h
  exact exec_ssEncode hlen (by omega) (by omega) (by omega) (by omega) (by omega)

/-- Settles O52: the checks are the command's own, and the words it writes are read bit by bit as R153's string. -/
theorem ssEncodeWritesTheShare : Obligations.SsEncodeWritesTheShare := by
  refine ⟨ssEncode_encodesAs, fun s => ⟨ssEncode_refusesLen, fun hlen hgc => ssEncode_refusesGroupCount hlen (by omega),
    fun hlen hgc hgt => ssEncode_refusesGroupThreshold hlen (by omega) (by omega),
    fun hlen hgc hgt hmt => ssEncode_refusesMemberThreshold hlen (by omega) (by omega) (by omega),
    fun hlen hgc hgt hmt hgi => ssEncode_refusesGroupIndex hlen (by omega) (by omega) (by omega) (by omega),
    fun hlen hgc hgt hmt hgi => ssEncode_refusesThresholdAboveCount hlen (by omega) (by omega) (by omega) (by omega),
    fun henc => ⟨_, exec_ssEncode_of_encodable henc, ?_, ?_, ?_, rfl⟩⟩⟩
  all_goals
    have hlen : s.byteLen ∈ Config.mnLens := henc.1
    have hle := (mnLens_bounds _ hlen).2
    have hwords := shareWordCount_le _ hlen
    have hbytes := secretBytes_length hlen
    have hshare := shareWords_length s.shf s.secretBytes
    rw [hbytes] at hshare
  · exact (BitVec.toNat_ofNat _ _).trans (Nat.mod_eq_of_lt (by omega))
  · intro i hi b hb
    rw [← State.secretBytes_eq_map hle, ← shareWords_getLsbD _ (hbytes ▸ hlen) (hbytes ▸ hi) hb]
    simp only [wordAt]
    rw [overwrite_getD _ _ _ _ (hi.trans_le (hwords.trans (by decide))), if_pos (hshare ▸ hi)]
  · intro i hi hi'
    simp only [wordAt]
    rw [overwrite_getD _ _ _ _ hi, if_neg (hshare ▸ hi'.not_gt)]

end Sys2Proof.Machine
end

section
/-! PROOFS. SS.DECODE: the share read from the words (45_share_codec.md R153 to R155, R158). -/

namespace Sys2Proof.Machine

open Sys2Proof.Claims

/-! ### The message in the words -/

theorem slice_slice (s : BitString) {n i j : Nat} (h : j ≤ n) : slice (slice s 0 n) i j = slice s i j := by
  simp only [slice, List.drop_zero, Nat.sub_zero, List.drop_take, List.take_take]
  congr 1
  omega

theorem wordsField_lt (s : State) (i j : Nat) : wordsField s i j < 2 ^ (j - i) := by
  exact (num_lt _).trans_eq (by rw [List.length_map, List.length_range])

theorem wordsField_single (s : State) (i : Nat) : wordsField s i (i + 1) = (wordsBit s i).toNat := by
  simp [wordsField, num]

/-- A share's words hold exactly its message, the check bit and the CRC, in SECRET's size (R155). -/
theorem ssWords_bounds : ∀ w ∈ Config.ssWords, 11 * w = shareMessageLen (shareValueLen w) + 33 ∧ w ≤ 32 ∧
    shareValueLen w ≤ 32 := by decide

/-- The message of `l` value bytes in the words of WORDS. -/
def wordsMessage (s : State) (l : Nat) : BitString := (List.range (shareMessageLen l)).map (wordsBit s)

/-- The share in the words of WORDS, for a value of `l` bytes. -/
def wordsEntry (s : State) (l : Nat) : StoreEntry :=
  ⟨messageFields (wordsMessage s l), messageValue (wordsMessage s l) l⟩

section
variable {s : State} (hw : s.wordCount ∈ Config.ssWords)
include hw

theorem slice_joinWords_message :
    slice (joinWords s.activeWords) 0 (shareMessageLen (shareValueLen s.wordCount)) =
      wordsMessage s (shareValueLen s.wordCount) := by
  obtain ⟨hbits, hle, -⟩ := ssWords_bounds _ hw
  rw [slice_eq_map_range _ (by rw [joinWords_length, activeWords_length hle]; omega), wordsMessage]
  refine List.map_congr_left fun k hk => ?_
  have hk := List.mem_range.1 hk
  rw [Nat.zero_add, joinWords_activeWords_getD s (by omega)]

/-- A field of the message is the same field of the words. -/
theorem num_slice_wordsMessage (i : Nat) {j : Nat} (hj : j ≤ shareMessageLen (shareValueLen s.wordCount)) :
    num (slice (wordsMessage s (shareValueLen s.wordCount)) i j) = wordsField s i j := by
  obtain ⟨hbits, hle, -⟩ := ssWords_bounds _ hw
  rw [← slice_joinWords_message hw, slice_slice _ hj, num_slice_joinWords_activeWords hle _ (by omega)]

/-- The entry's fields are those of the words, thresholds and counts one up. -/
theorem wordsEntry_fields :
    let f := (wordsEntry s (shareValueLen s.wordCount)).fields
    f.id.toNat = wordsField s 0 15 ∧ f.ie.toNat = wordsField s 15 20 ∧ f.gi.toNat = wordsField s 20 24 ∧
      f.gt.toNat = wordsField s 24 28 + 1 ∧ f.gc.toNat = wordsField s 28 32 + 1 ∧
      f.mi.toNat = wordsField s 32 36 ∧ f.mt.toNat = wordsField s 36 40 + 1 := by
  have hfield : ∀ i j, j ≤ 44 → num (slice (wordsMessage s (shareValueLen s.wordCount)) i j) = wordsField s i j :=
    fun i j hj => num_slice_wordsMessage hw i (by rw [shareMessageLen]; omega)
  have hid := wordsField_lt s 0 15
  have hie := wordsField_lt s 15 20
  have hgi := wordsField_lt s 20 24
  have hgt := wordsField_lt s 24 28
  have hgc := wordsField_lt s 28 32
  have hmi := wordsField_lt s 32 36
  have hmt := wordsField_lt s 36 40
  simp only [wordsEntry, messageFields, BitVec.toNat_ofNat]
  refine ⟨?_, ?_, ?_, ?_, ?_, ?_, ?_⟩
  all_goals
    rw [hfield _ _ (by decide)]
    exact Nat.mod_eq_of_lt (by omega)

/-- The checks of R158 read off the words. -/
theorem decodeShare_activeWords (k : Nat) :
    let l := shareValueLen s.wordCount
    let n := shareMessageLen l
    decodeShare (joinWords s.activeWords) l k =
      if ¬ (wordsBit s n = false ∧ wordsField s (n + 1) (n + 33) = (crc32 (wordsMessage s l)).toNat) then
        .error ⟨.corruptShare, k, 1⟩
      else if ¬ wordsField s 40 (44 + l / 4) = 0 then .error ⟨.corruptShare, k, 2⟩
      else if wordsField s 28 32 + 1 ≤ wordsField s 20 24 then .error ⟨.corruptShare, k, 3⟩
      else if wordsField s 28 32 + 1 < wordsField s 24 28 + 1 then .error ⟨.corruptShare, k, 4⟩
      else .ok (wordsEntry s l) := by
  obtain ⟨hbits, hle, -⟩ := ssWords_bounds _ hw
  obtain ⟨-, -, hgi, hgt, hgc, -, -⟩ := wordsEntry_fields hw
  have hcheckBit : ∀ b : Bool, b.toNat ≠ 0 ↔ ¬ b = false := by decide
  dsimp only
  rw [decodeShare, slice_joinWords_message hw, num_slice_joinWords_activeWords hle _ (by omega),
    num_slice_joinWords_activeWords hle _ (by omega), num_slice_wordsMessage hw _ (by rw [shareMessageLen]; omega),
    wordsField_single, ← hgi, ← hgt, ← hgc]
  exact if_congr ((or_congr_left (hcheckBit _)).trans not_and_or.symm) rfl rfl

end

theorem wordsEntry_value_length (s : State) (l : Nat) : (wordsEntry s l).value.length = l := by
  simp [wordsEntry, messageValue]

/-- Bit `b` of value byte `j`. -/
theorem wordsEntry_value_getLsbD (s : State) {l j b : Nat} (hj : j < l) (hb : b < 8) :
    ((wordsEntry s l).value.getD j 0).getLsbD b = wordsBit s (44 + l / 4 + 8 * j + (7 - b)) := by
  have hlen : ((wordsMessage s l).drop (44 + l / 4)).length = 8 * l := by
    simp only [wordsMessage, List.length_drop, List.length_map, List.length_range, shareMessageLen]
    omega
  rw [wordsEntry, messageValue, sliceBytes_eq_cutGroups, cutGroups_getD_getLsbD _ hlen.ge hj hb, List.getD,
    List.getElem?_drop, ← List.getD, ← Nat.add_assoc, wordsMessage, getD_map_range _ _ (by rw [shareMessageLen]; omega)]

/-! ### SS.DECODE -/

/-- The elements written over the head of a buffer are those read back from it. -/
theorem map_getD_overwrite {α : Type} {m n : Nat} (buf : Vector α m) (d : α) {xs : List α} (h : xs.length = n)
    (hn : n ≤ m) : ((List.range n).map fun j => (overwrite buf xs).getD j d) = xs := by
  subst h
  rw [← firstOf_eq_map_range _ d hn, firstOf_overwrite _ hn]

section
variable {s : State} {p : Byte}

theorem ssDecode_refusesCount (h : s.wordCount ∉ Config.ssWords) : Reports (.ssDecode p) s 0x02 s.wordCount 0 :=
  congrArg (finish s) (if_pos h)

theorem exec_ssDecode_error (hw : s.wordCount ∈ Config.ssWords) {r : Report}
    (h : decodeShare (joinWords s.activeWords) (shareValueLen s.wordCount) s.store.length = .error r) :
    exec (.ssDecode p) s = .next (s.report r) := by
  simp only [exec, execSsDecode, if_neg (not_not_intro hw), h]
  rfl

section
variable (hw : s.wordCount ∈ Config.ssWords) {e : StoreEntry}
  (h : decodeShare (joinWords s.activeWords) (shareValueLen s.wordCount) s.store.length = .ok e)
include hw h

theorem ssDecode_refusesFullStore (hp : p = 1) (hfull : s.store.length = 256) : Reports (.ssDecode p) s 0x82 256 0 := by
  subst hp
  have hpush : (1 : Byte).getLsbD 0 = true := by decide
  have hslots : Config.storeSlots ≤ s.store.length := hfull.ge
  rw [← hfull]
  simp only [Reports, exec, execSsDecode, if_neg (not_not_intro hw), h, if_pos hpush, if_pos hslots]
  rfl

theorem exec_ssDecode_ok (hp : p = 0 ∨ p = 1) (hroom : p = 1 → s.store.length < 256) :
    exec (.ssDecode p) s = .next { s with
      shf := e.fields
      secret := overwrite s.secret e.value
      len := BitVec.ofNat 6 e.value.length
      store := if p = 1 then s.store ++ [e] else s.store
      done := true
      phase := .idle } := by
  simp only [exec, execSsDecode, if_neg (not_not_intro hw), h]
  obtain rfl | rfl := hp
  · rfl
  · have hslots : ¬ Config.storeSlots ≤ s.store.length := (hroom rfl).not_ge
    rw [if_neg hslots]
    rfl

end

end

/-- Settles O53: the checks are the command's own, read off the words, and so are the fields and the value. -/
theorem ssDecodeChecksAndLoadsTheShare : Obligations.SsDecodeChecksAndLoadsTheShare := by
  refine ⟨ssDecode_encodesAs, fun p s hp => ⟨ssDecode_refusesCount, fun hw => ?_⟩⟩
  have hshare := decodeShare_activeWords hw s.store.length
  obtain ⟨hid, hie, hgi, hgt, hgc, hmi, hmt⟩ := wordsEntry_fields hw
  obtain ⟨-, -, hlen⟩ := ssWords_bounds _ hw
  refine ⟨fun hno => ?_, fun hcrc hno => ?_, fun hcrc hpad hno => ?_, fun hcrc hpad hlt hno => ?_,
    fun hcrc hpad hlt hle => ?_⟩
  · exact exec_ssDecode_error hw (hshare.trans (if_pos hno))
  · exact exec_ssDecode_error hw (hshare.trans ((if_neg (not_not_intro hcrc)).trans (if_pos hno)))
  · exact exec_ssDecode_error hw (hshare.trans ((if_neg (not_not_intro hcrc)).trans
      ((if_neg (not_not_intro hpad)).trans (if_pos hno))))
  · exact exec_ssDecode_error hw (hshare.trans ((if_neg (not_not_intro hcrc)).trans
      ((if_neg (not_not_intro hpad)).trans ((if_neg hlt.not_ge).trans (if_pos hno)))))
  · have hok := hshare.trans ((if_neg (not_not_intro hcrc)).trans
      ((if_neg (not_not_intro hpad)).trans ((if_neg hlt.not_ge).trans (if_neg hle.not_gt))))
    have hvalueLen := wordsEntry_value_length s (shareValueLen s.wordCount)
    refine ⟨ssDecode_refusesFullStore hw hok, fun hroom => ⟨_, exec_ssDecode_ok hw hok hp hroom, hid, hie, hgi, hgt,
      hgc, hmi, hmt, ?_, fun j hj b hb => ?_, fun j hj hj' => ?_, ?_, rfl⟩⟩
    · refine (BitVec.toNat_ofNat _ _).trans ?_
      rw [hvalueLen]
      exact Nat.mod_eq_of_lt (by omega)
    · change j < shareValueLen s.wordCount at hj
      simp only [secretAt]
      rw [overwrite_getD _ _ _ _ (by omega), if_pos (hvalueLen.symm ▸ hj)]
      exact wordsEntry_value_getLsbD s hj hb
    · simp only [secretAt]
      rw [overwrite_getD _ _ _ _ hj, if_neg (hvalueLen.symm ▸ hj'.not_gt)]
    · refine ite_congr rfl (fun _ => congrArg (fun v => s.store ++ [StoreEntry.mk _ v]) ?_) fun _ => rfl
      exact (map_getD_overwrite s.secret 0 hvalueLen hlen).symm

end Sys2Proof.Machine
end

section
/-! PROOFS. A share written by SS.ENCODE is read back by SS.DECODE (45_share_codec.md R157, R158). -/

namespace Sys2Proof.Machine

open Sys2Proof.Claims

/-! ### A message read back -/

section
variable {f : ShareFields} {value : List Byte}

theorem slice_shareMessage_field : ∀ x ∈ headerFields f,
    slice (shareMessage f value) x.1 (x.1 + x.2.1) = bitsOf x.2.1 x.2.2 := by
  intro x hx
  have hend : x.1 + x.2.1 ≤ 44 := by
    revert x
    simp [headerFields]
  have hlen : shareMessageLen value.length = 44 + value.length / 4 + 8 * value.length := rfl
  rw [slice_eq_map_range _ (by rw [shareMessage_length]; omega), ← messageBit_field f value x hx,
    Nat.add_sub_cancel_left]
  refine List.map_congr_left fun k hk => ?_
  have hk := List.mem_range.1 hk
  rw [← map_messageBit, getD_map_range _ _ (by omega)]

/-- A 4-bit field of a count less 1 gives the count back, where it is 1 to 16. -/
theorem countField_pred_succ {x : BitVec 5} (h : 1 ≤ x.toNat) (h' : x.toNat ≤ 16) :
    BitVec.ofNat 5 ((x.toNat - 1) % 2 ^ 4 + 1) = x := by
  rw [Nat.mod_eq_of_lt (by omega), Nat.sub_add_cancel h, BitVec.ofNat_toNat, BitVec.setWidth_eq]

theorem messageFields_shareMessage (hgt : 1 ≤ f.gt.toNat) (hgt' : f.gt.toNat ≤ 16) (hgc : 1 ≤ f.gc.toNat)
    (hgc' : f.gc.toNat ≤ 16) (hmt : 1 ≤ f.mt.toNat) (hmt' : f.mt.toNat ≤ 16) :
    messageFields (shareMessage f value) = f := by
  have hfields := slice_shareMessage_field (f := f) (value := value)
  simp only [headerFields, List.forall_mem_cons, List.not_mem_nil, false_imp_iff, implies_true, and_true,
    Nat.reduceAdd] at hfields
  obtain ⟨hid, hie, hgi, hgtBits, hgcBits, hmi, hmtBits, -⟩ := hfields
  simp only [messageFields, hid, hie, hgi, hgtBits, hgcBits, hmi, hmtBits, num_bitsOf, countField_pred_succ hgt hgt',
    countField_pred_succ hgc hgc', countField_pred_succ hmt hmt', Nat.mod_eq_of_lt (BitVec.isLt _),
    BitVec.ofNat_toNat, BitVec.setWidth_eq]

theorem messageValue_shareMessage : messageValue (shareMessage f value) value.length = value := by
  have hdrop : (shareMessage f value).drop (44 + value.length / 4) = joinGroups value := by
    rw [shareMessage, List.drop_left' (by simp [shareHeader]; omega)]
    rfl
  rw [messageValue, hdrop, sliceBytes_eq_cutGroups, cutGroups_joinGroups]

end

/-! ### The share in the words -/

section
variable {s u v : State}

/-- SS.ENCODE's input for LEN bytes, as an entry of the share store. -/
def encodedEntry (s : State) : StoreEntry := ⟨s.shf, (List.range s.byteLen).map (secretAt s)⟩

theorem encodedEntry_value_length (s : State) : (encodedEntry s).value.length = s.byteLen := by simp [encodedEntry]

theorem ssWords_of_mnLens :
    ∀ l ∈ Config.mnLens, shareWordCount l ∈ Config.ssWords ∧ shareValueLen (shareWordCount l) = l := by
  decide

/-- After SS.ENCODE the words hold the bits of the share, whatever else changes. -/
theorem wordsBit_after_ssEncode (henc : encodable s) (hu : exec .ssEncode s = .next u) {p : Nat}
    (hp : p < shareMessageLen s.byteLen + 33) :
    wordsBit u p = shareBit (encodedEntry s).fields (encodedEntry s).value p := by
  obtain ⟨-, -, -, -, -, -, hrun⟩ := ssEncodeWritesTheShare.2 s
  obtain ⟨u', hexec, -, hbits, -⟩ := hrun henc
  cases hu.symm.trans hexec
  have hcount := shareWordCount_eq _ henc.1
  have hword : p / 11 < 7 + 3 * s.byteLen / 4 := Nat.div_lt_of_lt_mul (by rw [← hcount] at hp; exact hp)
  rw [wordsBit, hbits _ hword _ (by omega)]
  exact congrArg _ (by omega)

theorem wordCount_after_ssEncode (henc : encodable s) (hu : exec .ssEncode s = .next u) (hv : v.wcount = u.wcount) :
    v.wordCount = shareWordCount s.byteLen := by
  obtain ⟨-, -, -, -, -, -, hrun⟩ := ssEncodeWritesTheShare.2 s
  obtain ⟨u', hexec, hcount, -⟩ := hrun henc
  cases hu.symm.trans hexec
  rw [State.wordCount, hv, hcount, shareWordCount]

/-- Words that hold a share's bits hold its message. -/
theorem wordsMessage_of_bits {e : StoreEntry} {l : Nat} (hl : e.value.length = l)
    (hbits : ∀ p < shareMessageLen l, wordsBit v p = shareBit e.fields e.value p) :
    wordsMessage v l = shareMessage e.fields e.value := by
  subst hl
  rw [← map_messageBit, wordsMessage]
  refine List.map_congr_left fun p hp => ?_
  have hp := List.mem_range.1 hp
  rw [hbits p hp, shareBit]
  exact if_pos hp

/-- A share's last 32 bits are the CRC of its message. -/
theorem shareBit_crc (e : StoreEntry) {i : Nat} :
    shareBit e.fields e.value (shareMessageLen e.value.length + 1 + i) =
      (crc32 (shareMessage e.fields e.value)).getLsbD (31 - i) := by
  rw [shareBit, ← shareMessageLen, map_messageBit, if_neg (by omega), if_neg (by omega)]
  exact congrArg _ (by omega)

/-- After SS.ENCODE the words hold the share's message. -/
theorem wordsMessage_after_ssEncode (henc : encodable s) (hu : exec .ssEncode s = .next u) :
    wordsMessage u s.byteLen = shareMessage (encodedEntry s).fields (encodedEntry s).value :=
  wordsMessage_of_bits (encodedEntry_value_length s) fun p hp => wordsBit_after_ssEncode henc hu (by omega)

/-- After SS.ENCODE the words' check bit is 0. -/
theorem wordsBit_checkBit_after_ssEncode (henc : encodable s) (hu : exec .ssEncode s = .next u) :
    wordsBit u (shareMessageLen s.byteLen) = false := by
  rw [wordsBit_after_ssEncode henc hu (by omega), ← encodedEntry_value_length s, shareBit, ← shareMessageLen,
    if_neg (lt_irrefl _), if_pos rfl]

/-- After SS.ENCODE the words' last 32 bits are the CRC. -/
theorem wordsBit_crc_after_ssEncode (henc : encodable s) (hu : exec .ssEncode s = .next u) {i : Nat} (hi : i < 32) :
    wordsBit u (shareMessageLen s.byteLen + 1 + i) = (crc32 (wordsMessage u s.byteLen)).getLsbD (31 - i) := by
  rw [wordsBit_after_ssEncode henc hu (by omega), wordsMessage_after_ssEncode henc hu, ← shareBit_crc,
    encodedEntry_value_length]

/-- The number in the last 32 bits, and those bits. -/
theorem wordsField_eq_toNat_iff (n : Nat) (w : Word) :
    wordsField s (n + 1) (n + 33) = w.toNat ↔ ∀ i < 32, wordsBit s (n + 1 + i) = w.getLsbD (31 - i) := by
  rw [wordsField, show n + 33 - (n + 1) = 32 by omega]
  constructor
  · intro h i hi
    have hbit := testBit_num ((List.range 32).map fun k => wordsBit s (n + 1 + k)) (k := i) (by simpa using hi)
    rw [h, List.length_map, List.length_range, getD_map_range _ _ hi] at hbit
    exact hbit.symm
  · intro h
    have hmap : ((List.range 32).map fun k => wordsBit s (n + 1 + k)) = bitsOf 32 w.toNat :=
      List.map_congr_left fun i hi => h i (List.mem_range.1 hi)
    rw [hmap, num_bitsOf, Nat.mod_eq_of_lt w.isLt]

/-- After SS.ENCODE the reserved and pad bits are 0. -/
theorem wordsField_pad_after_ssEncode (henc : encodable s) (hu : exec .ssEncode s = .next u) :
    wordsField u 40 (44 + s.byteLen / 4) = 0 := by
  have hvalueLen := encodedEntry_value_length s
  have hzero : ∀ k < 44 + s.byteLen / 4 - 40, wordsBit u (40 + k) =
      (0 : Nat).testBit (44 + s.byteLen / 4 - 40 - 1 - k) := by
    intro k hk
    have hlt : 40 + k < shareMessageLen s.byteLen := by rw [shareMessageLen]; omega
    rw [wordsBit_after_ssEncode henc hu (by omega), shareBit, ← shareMessageLen, hvalueLen, if_pos hlt,
      Nat.zero_testBit]
    simp (disch := omega) only [messageBit, hvalueLen, if_neg, if_pos]
  rw [wordsField, List.map_congr_left fun k hk => hzero k (List.mem_range.1 hk), ← bitsOf, num_bitsOf, Nat.zero_mod]

/-- What SS.ENCODE wrote is the entry it was made from. -/
theorem wordsEntry_after_ssEncode (henc : encodable s) (hu : exec .ssEncode s = .next u) :
    wordsEntry u s.byteLen = encodedEntry s := by
  have hmessage := wordsMessage_after_ssEncode henc hu
  have hvalueLen := encodedEntry_value_length s
  obtain ⟨-, hgc, hgc', hgt, hgt', hmt, hmt', -, -⟩ := henc
  rw [wordsEntry, hmessage, messageFields_shareMessage (f := (encodedEntry s).fields) hgt hgt' hgc hgc' hmt hmt',
    ← hvalueLen, messageValue_shareMessage]

/-- What SS.ENCODE wrote passes SS.DECODE's checks and gives back the entry it was made from. -/
theorem decodeShare_after_ssEncode (henc : encodable s) (hu : exec .ssEncode s = .next u) (k : Nat) :
    u.wordCount ∈ Config.ssWords ∧
      decodeShare (joinWords u.activeWords) (shareValueLen u.wordCount) k = .ok (encodedEntry s) := by
  obtain ⟨hmem, hvalueLen⟩ := ssWords_of_mnLens _ henc.1
  have hcount := wordCount_after_ssEncode henc hu rfl
  have hw : u.wordCount ∈ Config.ssWords := hcount ▸ hmem
  have hl : shareValueLen u.wordCount = s.byteLen := hcount ▸ hvalueLen
  have hshare := decodeShare_activeWords hw k
  obtain ⟨-, -, hgi, hgt, hgc, -, -⟩ := wordsEntry_fields hw
  rw [hl, wordsEntry_after_ssEncode henc hu] at hgi hgt hgc
  have hlegal := henc
  obtain ⟨-, -, -, -, -, -, -, hgiLt, hgtLe⟩ := hlegal
  rw [hl] at hshare
  have hcrc : wordsField u (shareMessageLen s.byteLen + 1) (shareMessageLen s.byteLen + 33) =
      (crc32 (wordsMessage u s.byteLen)).toNat :=
    (wordsField_eq_toNat_iff _ _).2 fun i hi => wordsBit_crc_after_ssEncode henc hu hi
  have hindex : ¬ wordsField u 28 32 + 1 ≤ wordsField u 20 24 := by
    rw [← hgi, ← hgc]
    exact hgiLt.not_ge
  have hthreshold : ¬ wordsField u 28 32 + 1 < wordsField u 24 28 + 1 := by
    rw [← hgt, ← hgc]
    exact hgtLe.not_gt
  rw [hl, ← wordsEntry_after_ssEncode henc hu]
  exact ⟨hw, hshare.trans ((if_neg (not_not_intro ⟨wordsBit_checkBit_after_ssEncode henc hu, hcrc⟩)).trans
    ((if_neg (not_not_intro (wordsField_pad_after_ssEncode henc hu))).trans
      ((if_neg hindex).trans (if_neg hthreshold))))⟩

end

/-- Settles O54: the words alone decide what SS.DECODE makes of them, and what SS.ENCODE wrote passes its checks. -/
theorem shareRoundTrip : Obligations.ShareRoundTrip := by
  intro s u v p henc hu hwords hwcount hp hroom
  have hwordCount : v.wordCount = u.wordCount := congrArg BitVec.toNat hwcount
  have hactive : v.activeWords = u.activeWords := by rw [State.activeWords, hwords, hwordCount, State.activeWords]
  obtain ⟨hw, hshare⟩ := decodeShare_after_ssEncode henc hu v.store.length
  rw [← hwordCount, ← hactive] at hshare
  have hvalueLen := encodedEntry_value_length s
  refine ⟨_, exec_ssDecode_ok (hwordCount ▸ hw) hshare hp hroom, rfl, ?_, fun j hj => ?_, rfl, rfl⟩
  · simp only [hvalueLen, State.byteLen, BitVec.ofNat_toNat, BitVec.setWidth_eq]
  · simp only [secretAt]
    rw [overwrite_getD _ _ _ _ hj, hvalueLen]
    exact ite_congr rfl (fun hjl => getD_map_range _ _ hjl) fun _ => rfl

end Sys2Proof.Machine
end

section
/-! PROOFS. The CRC of a share finds every burst of up to 32 bits (45_share_codec.md R154, R165). The register is a
linear function of the bits fed to it; a burst leaves it nonzero, for read backwards from 0 it would hold a single
bit that moves down by one place at each step. -/

namespace Sys2Proof.Machine

open Sys2Proof.Claims

/-! ### The register -/

/-- The CRC register after the bits at positions 0 to `n`−1, from the value `c` (R154). -/
def crcRegister (c : Word) (f : Nat → Bool) : Nat → Word
  | 0 => c
  | n + 1 => crcStep (crcRegister c f n) (f n)

theorem crc32_map_range (f : Nat → Bool) (n : Nat) :
    crc32 ((List.range n).map f) = crcRegister 0xFFFFFFFF f n ^^^ 0xFFFFFFFF := by
  have hregister : ((List.range n).map f).foldl crcStep 0xFFFFFFFF = crcRegister 0xFFFFFFFF f n := by
    induction n with
    | zero => rfl
    | succ n ih => rw [List.range_succ, List.map_append, List.foldl_append, ih]; rfl
  rw [crc32, hregister]

theorem xor_xor_xor_cancel (a b g : Word) : (a ^^^ g) ^^^ (b ^^^ g) = a ^^^ b := by
  calc (a ^^^ g) ^^^ (b ^^^ g) = (a ^^^ b) ^^^ (g ^^^ g) := by ac_rfl
    _ = a ^^^ b := by rw [BitVec.xor_self, BitVec.xor_zero]

theorem xor_xor_right_comm (a b g : Word) : a ^^^ b ^^^ g = a ^^^ g ^^^ b := by ac_rfl

/-- A step is linear. -/
theorem crcStep_xor (c c' : Word) (d d' : Bool) : crcStep (c ^^^ c') (d ^^ d') = crcStep c d ^^^ crcStep c' d' := by
  simp only [crcStep, BitVec.getLsbD_xor, BitVec.shiftLeft_xor_distrib]
  have hcond : ((c.getLsbD 31 ^^ c'.getLsbD 31) ^^ (d ^^ d')) = ((c.getLsbD 31 ^^ d) ^^ (c'.getLsbD 31 ^^ d')) := by
    rw [Bool.xor_assoc, Bool.xor_assoc, Bool.xor_left_comm (c'.getLsbD 31)]
  rw [hcond]
  cases (c.getLsbD 31 ^^ d) <;> cases (c'.getLsbD 31 ^^ d')
  case false.false => rfl
  case false.true => exact BitVec.xor_assoc _ _ _
  case true.false => exact xor_xor_right_comm _ _ _
  case true.true => exact (xor_xor_xor_cancel _ _ _).symm

theorem crcRegister_xor (c c' : Word) (f f' : Nat → Bool) (n : Nat) :
    crcRegister (c ^^^ c') (fun i => f i ^^ f' i) n = crcRegister c f n ^^^ crcRegister c' f' n := by
  induction n with
  | zero => rfl
  | succ n ih => rw [crcRegister, ih, crcStep_xor, crcRegister, crcRegister]

/-- Two messages' CRCs differ by the register of their difference. -/
theorem crc32_xor (f f' : Nat → Bool) (n : Nat) :
    crc32 ((List.range n).map f) ^^^ crc32 ((List.range n).map f') = crcRegister 0 (fun i => f i ^^ f' i) n := by
  have hzero : (0 : Word) = 0xFFFFFFFF ^^^ 0xFFFFFFFF := by decide
  rw [crc32_map_range, crc32_map_range, hzero, crcRegister_xor,
    xor_xor_xor_cancel]

theorem crcStep_of_msb {c : Word} {d : Bool} (h : c.getLsbD 31 = d) : crcStep c d = c <<< 1 := by
  rw [crcStep, h, Bool.xor_self]
  rfl

/-- The polynomial is odd: a step that leaves bit 0 clear only shifted (R154). -/
theorem msb_of_crcStep_even {c : Word} {d : Bool} (h : (crcStep c d).getLsbD 0 = false) : c.getLsbD 31 = d := by
  rw [crcStep] at h
  split at h
  · simp at h
  · rename_i hxor
    simpa using hxor

/-! ### A register fed its own bits -/

theorem getLsbD_shiftLeft_one (c : Word) {i : Nat} (h : i < 31) : (c <<< 1).getLsbD (i + 1) = c.getLsbD i := by
  rw [BitVec.getLsbD_shiftLeft, Nat.add_sub_cancel]
  simp [show i + 1 < 32 by omega]

/-- After its own 32 bits the register is 0. -/
theorem crcRegister_ownBits {c : Word} {f : Nat → Bool} {n : Nat}
    (h : ∀ i < 32, f (n + i) = (crcRegister c f n).getLsbD (31 - i)) : crcRegister c f (n + 32) = 0 := by
  have hshift : ∀ k ≤ 32, crcRegister c f (n + k) = crcRegister c f n <<< k := by
    intro k hk
    induction k with
    | zero => simp
    | succ k ih =>
      rw [← Nat.add_assoc, crcRegister, ih (by omega), crcStep_of_msb, ← BitVec.shiftLeft_add]
      rw [h k hk, BitVec.getLsbD_shiftLeft]
      simp [show ¬ 31 < k by omega]
  rw [hshift 32 le_rfl]
  simp

/-! ### Bursts -/

theorem crcRegister_of_zeros {f : Nat → Bool} {n : Nat} (h : ∀ i < n, f i = false) : crcRegister 0 f n = 0 := by
  induction n with
  | zero => rfl
  | succ n ih =>
    rw [crcRegister, ih fun i hi => h i (by omega), h n (by omega)]
    decide

/-- The register's lowest bit, where all below it are clear. -/
def lowestBit (c : Word) (k : Nat) : Prop := c.getLsbD k = true ∧ ∀ i < k, c.getLsbD i = false

/-- A register whose lowest bit is above bit 0 had it one place lower a step before. -/
theorem lowestBit_of_crcStep {c : Word} {d : Bool} {k : Nat} (hk : k < 31) (h : lowestBit (crcStep c d) (k + 1)) :
    lowestBit c k := by
  obtain ⟨hset, hclear⟩ := h
  rw [crcStep_of_msb (msb_of_crcStep_even (hclear 0 (by omega)))] at hset hclear
  rw [getLsbD_shiftLeft_one c hk] at hset
  refine ⟨hset, fun i hi => ?_⟩
  rw [← getLsbD_shiftLeft_one c (by omega)]
  exact hclear (i + 1) (by omega)

theorem lowestBit_of_crcRegister {c : Word} {f : Nat → Bool} {n : Nat} :
    ∀ {j k : Nat}, j + k ≤ 31 → lowestBit (crcRegister c f (n + j)) (k + j) → lowestBit (crcRegister c f n) k
  | 0, _, _, h => h
  | j + 1, k, hle, h => lowestBit_of_crcRegister (j := j) (by omega) (lowestBit_of_crcStep (by omega) h)

/-- Set bits within 32 positions leave the register nonzero (R165). -/
theorem crcRegister_burst_ne_zero {f : Nat → Bool} {a n : Nat} (hburst : ∀ i < n, f i = true → a ≤ i ∧ i < a + 32)
    (hset : ∃ i < n, f i = true) : crcRegister 0 f n ≠ 0 := by
  induction n with
  | zero => exact fun _ => absurd hset (by simp)
  | succ n ih =>
    intro hzero
    rw [crcRegister] at hzero
    have hmsb : (crcRegister 0 f n).getLsbD 31 = f n := msb_of_crcStep_even (by rw [hzero]; rfl)
    rw [crcStep_of_msb hmsb] at hzero
    have hlow : ∀ i < 31, (crcRegister 0 f n).getLsbD i = false := fun i hi => by
      rw [← getLsbD_shiftLeft_one _ hi, hzero]
      exact BitVec.getLsbD_zero
    cases hlast : f n with
    | true =>
      obtain ⟨han, hna⟩ := hburst n (Nat.lt_succ_self n) hlast
      have hstart : lowestBit (crcRegister 0 f a) (31 - (n - a)) := by
        refine lowestBit_of_crcRegister (j := n - a) (by omega) ?_
        rw [Nat.add_sub_cancel' han, Nat.sub_add_cancel (by omega)]
        exact ⟨hmsb.trans hlast, hlow⟩
      have hclear : crcRegister 0 f a = 0 := crcRegister_of_zeros fun i hi => by
        by_contra hne
        exact hi.not_ge (hburst i (by omega) (Bool.eq_true_of_not_eq_false hne)).1
      rw [hclear] at hstart
      exact absurd hstart.1 (by simp)
    | false =>
      have hbefore : ∃ i < n, f i = true := by
        obtain ⟨i, hi, hfi⟩ := hset
        refine ⟨i, lt_of_le_of_ne (Nat.lt_succ_iff.1 hi) ?_, hfi⟩
        rintro rfl
        exact absurd hfi (by simp [hlast])
      refine ih (fun i hi => hburst i (by omega)) hbefore (BitVec.eq_of_getLsbD_eq fun i hi => ?_)
      refine Eq.trans ?_ BitVec.getLsbD_zero.symm
      obtain hlt | rfl : i < 31 ∨ i = 31 := by omega
      · exact hlow i hlt
      · exact hmsb.trans hlast

/-! ### Shares with changed bits -/

theorem crcRegister_congr {c : Word} {f g : Nat → Bool} {n : Nat} (h : ∀ i < n, f i = g i) :
    crcRegister c f n = crcRegister c g n := by
  induction n with
  | zero => rfl
  | succ n ih => rw [crcRegister, crcRegister, ih fun i hi => h i (by omega), h n (by omega)]

/-- Where two states' words differ, the check bit after `n` message bits left out. -/
def shareDifference (u v : State) (n i : Nat) : Bool :=
  if i < n then wordsBit v i ^^ wordsBit u i else wordsBit v (i + 1) ^^ wordsBit u (i + 1)

section
variable {u v : State} {l : Nat}

/-- Over two shares with right CRCs the difference takes the register back to 0. -/
theorem crcRegister_shareDifference
    (hu : ∀ i < 32, wordsBit u (shareMessageLen l + 1 + i) = (crc32 (wordsMessage u l)).getLsbD (31 - i))
    (hv : ∀ i < 32, wordsBit v (shareMessageLen l + 1 + i) = (crc32 (wordsMessage v l)).getLsbD (31 - i)) :
    crcRegister 0 (shareDifference u v (shareMessageLen l)) (shareMessageLen l + 32) = 0 := by
  refine crcRegister_ownBits fun i hi => ?_
  have hmessage : crcRegister 0 (shareDifference u v (shareMessageLen l)) (shareMessageLen l) =
      crc32 (wordsMessage v l) ^^^ crc32 (wordsMessage u l) := by
    rw [wordsMessage, wordsMessage, crc32_xor]
    exact crcRegister_congr fun i hi => if_pos hi
  rw [hmessage, BitVec.getLsbD_xor, ← hu i hi, ← hv i hi, shareDifference, if_neg (by omega), Nat.add_right_comm]

/-- A share with right check bit and CRC loses them when bits within 32 positions change (R165). -/
theorem checks_fail_of_burst {a : Nat} (hcheck : wordsBit u (shareMessageLen l) = false)
    (hcrc : ∀ i < 32, wordsBit u (shareMessageLen l + 1 + i) = (crc32 (wordsMessage u l)).getLsbD (31 - i))
    (hsame : ∀ i < shareMessageLen l + 33, i < a ∨ a + 32 ≤ i → wordsBit v i = wordsBit u i)
    (hdiff : ∃ i < shareMessageLen l + 33, wordsBit v i ≠ wordsBit u i) :
    ¬ (wordsBit v (shareMessageLen l) = false ∧ wordsField v (shareMessageLen l + 1) (shareMessageLen l + 33) =
      (crc32 (wordsMessage v l)).toNat) := by
  rintro ⟨hcheckV, hcrcV⟩
  have hwithin : ∀ i < shareMessageLen l + 33, (wordsBit v i ^^ wordsBit u i) = true → a ≤ i ∧ i < a + 32 := by
    intro i hi hxor
    by_contra hout
    rw [hsame i hi (by omega), Bool.xor_self] at hxor
    exact Bool.false_ne_true hxor
  refine crcRegister_burst_ne_zero (a := if a ≤ shareMessageLen l then a else a - 1) (fun i hi hset => ?_) ?_
    (crcRegister_shareDifference hcrc ((wordsField_eq_toNat_iff _ _).1 hcrcV))
  · rw [shareDifference] at hset
    split at hset
    · have hrange := hwithin i (by omega) hset
      split <;> omega
    · have hrange := hwithin (i + 1) (by omega) hset
      split <;> omega
  · obtain ⟨i, hi, hne⟩ := hdiff
    have hset : (wordsBit v i ^^ wordsBit u i) = true := Bool.xor_iff_ne.2 hne
    obtain hlt | rfl | hgt := lt_trichotomy i (shareMessageLen l)
    · exact ⟨i, by omega, (if_pos hlt).trans hset⟩
    · exact absurd (hcheckV.trans hcheck.symm) hne
    · refine ⟨i - 1, by omega, (if_neg (by omega)).trans ?_⟩
      rwa [Nat.sub_add_cancel (by omega)]

end

/-- Settles O60: the CRC finds a burst, and SS.DECODE checks it first. -/
theorem errorBurstIsDetected : Obligations.ErrorBurstIsDetected := by
  intro s u v p a henc hu hsame hdiff hwcount _
  have hcount := wordCount_after_ssEncode henc hu hwcount
  obtain ⟨hmem, hvalueLen⟩ := ssWords_of_mnLens _ henc.1
  have hw : v.wordCount ∈ Config.ssWords := hcount ▸ hmem
  have hl : shareValueLen v.wordCount = s.byteLen := hcount ▸ hvalueLen
  have hbits : 11 * (7 + 3 * s.byteLen / 4) = shareMessageLen s.byteLen + 33 := shareWordCount_eq _ henc.1
  rw [hbits] at hsame hdiff
  have hfail := checks_fail_of_burst (wordsBit_checkBit_after_ssEncode henc hu)
    (fun i hi => wordsBit_crc_after_ssEncode henc hu hi) hsame hdiff
  rw [← hl] at hfail
  exact exec_ssDecode_error hw ((decodeShare_activeWords hw v.store.length).trans (if_pos hfail))

/-- Settles O55: one changed word is a burst of at most 11 bits. -/
theorem changedWordIsDetected : Obligations.ChangedWordIsDetected := by
  intro s u v p k henc hu hk hsame hne hwcount hp
  have hwords := shareWordCount_le _ henc.1
  have hother : ∀ i < 11 * (7 + 3 * s.byteLen / 4), i / 11 ≠ k → wordsBit v i = wordsBit u i := by
    intro i hi hik
    have hword : i / 11 < 32 := (Nat.div_lt_of_lt_mul hi).trans_le (hwords.trans (by decide))
    rw [wordsBit, wordsBit, hsame _ hword hik]
  refine errorBurstIsDetected s u v p (11 * k) henc hu (fun i hi hout => hother i hi (by omega)) ?_ hwcount hp
  obtain ⟨b, hb, hbit⟩ : ∃ b < 11, (wordAt v k).getLsbD b ≠ (wordAt u k).getLsbD b := by
    by_contra! hall
    exact hne (BitVec.eq_of_getLsbD_eq hall)
  refine ⟨11 * k + (10 - b), by omega, ?_⟩
  rw [wordsBit, wordsBit, Nat.mul_add_div (by decide), Nat.div_eq_of_lt (by omega), Nat.mul_add_mod,
    Nat.mod_eq_of_lt (by omega), Nat.add_zero, show 10 - (10 - b) = b by omega]
  exact hbit

end Sys2Proof.Machine
end

section
/-! PROOFS. SS.RECOVER: the checks and the two-level reconstruction, slot by slot (45_share_codec.md R161 to R163). -/

namespace Sys2Proof.Machine

open Sys2Proof.Claims

/-! ### Scans in slot order -/

/-- The first hit of a scan of ascending slots. -/
theorem findSome?_of_first {α : Type} {f : Nat → Option α} {ks : List Nat} (hsorted : ks.Pairwise (· < ·)) {k : Nat}
    (hk : k ∈ ks) {a : α} (hit : f k = some a) (hfirst : ∀ m ∈ ks, m < k → f m = none) : ks.findSome? f = some a := by
  induction ks with
  | nil => exact absurd hk List.not_mem_nil
  | cons m ks ih =>
    obtain ⟨hhead, htail⟩ := List.pairwise_cons.1 hsorted
    rcases List.mem_cons.1 hk with rfl | hmem
    · rw [List.findSome?_cons_of_isSome (by rw [hit]; rfl), hit]
    · rw [List.findSome?_cons_of_isNone (by rw [hfirst m List.mem_cons_self (hhead k hmem)]; rfl)]
      exact ih htail hmem fun m hm => hfirst m (List.mem_cons_of_mem _ hm)

section
variable {st : List StoreEntry}

/-- Slot `k` of the store with its number. -/
def slotEntry (st : List StoreEntry) (k : Nat) : StoreEntry × Nat := (entryAt st k, k)

theorem zipIdx_eq_map (st : List StoreEntry) : st.zipIdx = (List.range st.length).map (slotEntry st) := by
  refine List.ext_getElem (by simp) fun k hk _ => ?_
  have hlt : k < st.length := by simpa using hk
  simp [slotEntry, entryAt, List.getD, hlt]

theorem groupMembers_zipIdx (st : List StoreEntry) (g : Nat) :
    groupMembers st.zipIdx g = (groupSlots st g).map (slotEntry st) := by
  rw [groupMembers, zipIdx_eq_map, List.filter_map, groupSlots]
  exact congrArg (List.map _) (List.filter_congr fun k _ => rfl)

theorem groupSlots_pairwise (st : List StoreEntry) (g : Nat) : (groupSlots st g).Pairwise (· < ·) :=
  List.pairwise_lt_range.sublist List.filter_sublist

/-! ### Agreement with the first entry -/

theorem mismatchCode_eq_disagreement (e0 e : StoreEntry) : mismatchCode e0 e = disagreement e0 e := rfl

theorem firstMismatch_zipIdx_of_first {e0 : StoreEntry} {k c : Nat} (hk : k < st.length)
    (hit : disagreement e0 (entryAt st k) = some c) (hfirst : ∀ m < k, disagreement e0 (entryAt st m) = none) :
    firstMismatch e0 st.zipIdx = some ⟨.mismatchedShareSet, k, c⟩ := by
  rw [firstMismatch, zipIdx_eq_map, List.findSome?_map]
  refine findSome?_of_first List.pairwise_lt_range (List.mem_range.2 hk) ?_ fun m _ hmk => ?_
  · simp only [Function.comp_apply, slotEntry, mismatchCode_eq_disagreement, hit, Option.map_some]
  · simp only [Function.comp_apply, slotEntry, mismatchCode_eq_disagreement, hfirst m hmk, Option.map_none]

theorem firstMismatch_zipIdx_of_agree {e0 : StoreEntry} (h : ∀ k < st.length, disagreement e0 (entryAt st k) = none) :
    firstMismatch e0 st.zipIdx = none := by
  rw [firstMismatch, zipIdx_eq_map, List.findSome?_map, List.findSome?_eq_none_iff]
  intro k hk
  simp only [Function.comp_apply, slotEntry, mismatchCode_eq_disagreement, h k (List.mem_range.1 hk), Option.map_none]

/-! ### One group -/

/-- The point of the share in slot `k` (R156). -/
def memberAt (st : List StoreEntry) (k : Nat) : Point := memberPoint (slotEntry st k)

theorem memberAt_x_inj {m k : Nat} : (memberAt st m).x = (memberAt st k).x ↔
    (entryAt st m).fields.mi = (entryAt st k).fields.mi := by
  refine ⟨fun h => ?_, fun h => congrArg (fun mi => BitVec.setWidth 8 mi + 1) h⟩
  have hwide : (entryAt st m).fields.mi.setWidth 8 = (entryAt st k).fields.mi.setWidth 8 := add_right_cancel h
  simpa using congrArg (BitVec.setWidth 4) hwide

theorem slotConflict_memberAt {g k : Nat} :
    slotConflict (memberAt st) (groupSlots st g) k ↔ memberConflict st g k := by
  simp only [slotConflict, memberConflict, memberAt_x_inj]
  rfl

theorem firstSlots_memberAt (st : List StoreEntry) (g : Nat) :
    firstSlots (memberAt st) (groupSlots st g) = memberSlots st g := by
  simp only [firstSlots, memberSlots, ne_eq, memberAt_x_inj]

/-- A group's point, where it has its threshold of distinct members (R162). -/
def groupPoint (st : List StoreEntry) (l g : Nat) : Point :=
  ⟨g, BitVec.ofNat 8 (g + 1), interp0 (((memberSlots st g).take (groupMt st g)).map (memberAt st)) l⟩

/-- The group has its threshold of distinct members. -/
abbrev groupResolved (st : List StoreEntry) (g : Nat) : Prop :=
  groupSlots st g ≠ [] ∧ groupMt st g ≤ (memberSlots st g).length

section
variable {e : StoreEntry × Nat} {es : List (StoreEntry × Nat)} {g l : Nat}

theorem resolveGroup_of_thresholdMismatch {r : Report} (h : thresholdMismatch e.1.fields.mt (e :: es) = some r) :
    resolveGroup (e :: es) g l = .error r := by
  simp only [resolveGroup, h]

theorem resolveGroup_of_conflict (h : thresholdMismatch e.1.fields.mt (e :: es) = none) {slot : Nat}
    (hpoints : distinctPoints [] ((e :: es).map memberPoint) = .error slot) :
    resolveGroup (e :: es) g l = .error ⟨.duplicateShare, slot, g⟩ := by
  simp only [resolveGroup, h, hpoints]

theorem resolveGroup_of_points (h : thresholdMismatch e.1.fields.mt (e :: es) = none) {ps : List Point}
    (hpoints : distinctPoints [] ((e :: es).map memberPoint) = .ok ps) :
    resolveGroup (e :: es) g l =
      if ps.length < e.1.fields.mt.toNat then .ok none
      else .ok (some ⟨g, BitVec.ofNat 8 (g + 1), interp0 (ps.take e.1.fields.mt.toNat) l⟩) := by
  simp only [resolveGroup, h, hpoints]

end

section
variable {g : Nat}

theorem groupMembers_eq_cons (h : groupSlots st g ≠ []) :
    ∃ es, groupMembers st.zipIdx g = slotEntry st ((groupSlots st g).headD 0) :: es := by
  obtain ⟨k, ks, hcons⟩ := List.exists_cons_of_ne_nil h
  exact ⟨ks.map (slotEntry st), by rw [groupMembers_zipIdx, hcons, List.map_cons, List.headD_cons]⟩

theorem map_memberPoint_groupMembers (st : List StoreEntry) (g : Nat) :
    (groupMembers st.zipIdx g).map memberPoint = (groupSlots st g).map (memberAt st) := by
  rw [groupMembers_zipIdx, List.map_map]
  rfl

/-- The first slot of a group with another threshold than the group's first (sub-code 6). -/
theorem thresholdMismatch_of_first {mt : BitVec 5} {k : Nat} (hk : k ∈ groupSlots st g)
    (hit : (entryAt st k).fields.mt.toNat ≠ mt.toNat)
    (hfirst : ∀ m ∈ groupSlots st g, m < k → (entryAt st m).fields.mt.toNat = mt.toNat) :
    thresholdMismatch mt (groupMembers st.zipIdx g) = some ⟨.mismatchedShareSet, k, 6⟩ := by
  rw [thresholdMismatch, groupMembers_zipIdx, List.findSome?_map]
  exact findSome?_of_first (groupSlots_pairwise st g) hk (if_pos fun h => hit (congrArg BitVec.toNat h))
    fun m hm hmk => if_neg (not_not_intro (BitVec.eq_of_toNat_eq (hfirst m hm hmk)))

theorem thresholdMismatch_of_agree {mt : BitVec 5}
    (h : ∀ k ∈ groupSlots st g, (entryAt st k).fields.mt.toNat = mt.toNat) :
    thresholdMismatch mt (groupMembers st.zipIdx g) = none := by
  rw [thresholdMismatch, groupMembers_zipIdx, List.findSome?_map, List.findSome?_eq_none_iff]
  exact fun k hk => if_neg (not_not_intro (BitVec.eq_of_toNat_eq (h k hk)))

theorem resolveGroup_mismatch (l : Nat) {k : Nat} (hk : k ∈ groupSlots st g)
    (hit : (entryAt st k).fields.mt.toNat ≠ groupMt st g)
    (hfirst : ∀ m ∈ groupSlots st g, m < k → (entryAt st m).fields.mt.toNat = groupMt st g) :
    resolveGroup (groupMembers st.zipIdx g) g l = .error ⟨.mismatchedShareSet, k, 6⟩ := by
  obtain ⟨es, hes⟩ := groupMembers_eq_cons (List.ne_nil_of_mem hk)
  have hscan := thresholdMismatch_of_first hk hit hfirst
  rw [hes] at hscan ⊢
  exact resolveGroup_of_thresholdMismatch hscan

theorem resolveGroup_conflict (l : Nat) {k : Nat} (hagree : groupAgrees st g) (hk : k ∈ groupSlots st g)
    (hit : memberConflict st g k) (hfirst : ∀ m ∈ groupSlots st g, m < k → ¬ memberConflict st g m) :
    resolveGroup (groupMembers st.zipIdx g) g l = .error ⟨.duplicateShare, k, g⟩ := by
  obtain ⟨es, hes⟩ := groupMembers_eq_cons (List.ne_nil_of_mem hk)
  have hscan := thresholdMismatch_of_agree hagree
  have hpoints : distinctPoints [] ((groupSlots st g).map (memberAt st)) = .error k :=
    distinctPoints_map_error (groupSlots_pairwise st g) hk (slotConflict_memberAt.2 hit)
      fun m hm hmk h => hfirst m hm hmk (slotConflict_memberAt.1 h)
  rw [← map_memberPoint_groupMembers, hes] at hpoints
  rw [hes] at hscan ⊢
  exact resolveGroup_of_conflict hscan hpoints

theorem resolveGroup_clean (l : Nat) (hclean : groupClean st g) :
    resolveGroup (groupMembers st.zipIdx g) g l =
      .ok (if groupResolved st g then some (groupPoint st l g) else none) := by
  obtain ⟨hagree, hdistinct⟩ := hclean
  by_cases hnil : groupSlots st g = []
  · rw [if_neg fun h => h.1 hnil, groupMembers_zipIdx, hnil]
    rfl
  obtain ⟨es, hes⟩ := groupMembers_eq_cons hnil
  have hscan := thresholdMismatch_of_agree hagree
  have hpoints : distinctPoints [] ((groupSlots st g).map (memberAt st)) =
      .ok ((memberSlots st g).map (memberAt st)) := by
    rw [← firstSlots_memberAt]
    exact distinctPoints_map_ok (groupSlots_pairwise st g) fun m hm h => hdistinct m hm (slotConflict_memberAt.1 h)
  rw [← map_memberPoint_groupMembers, hes] at hpoints
  rw [hes] at hscan ⊢
  refine (resolveGroup_of_points hscan hpoints).trans ?_
  rw [List.length_map, ← List.map_take]
  by_cases hshort : (memberSlots st g).length < groupMt st g
  · exact (if_pos hshort).trans (congrArg Except.ok (if_neg fun h => h.2.not_gt hshort).symm)
  · exact (if_neg hshort).trans (congrArg Except.ok (if_pos ⟨hnil, Nat.not_lt.1 hshort⟩).symm)

end

/-! ### All groups -/

theorem resolveGroups_clean (l : Nat) {gs : List Nat} (hclean : ∀ g ∈ gs, groupClean st g) :
    resolveGroups st.zipIdx l gs = .ok ((gs.filter fun g => groupResolved st g).map (groupPoint st l)) := by
  induction gs with
  | nil => rfl
  | cons g gs ih =>
    rw [resolveGroups, resolveGroup_clean l (hclean g List.mem_cons_self),
      ih fun g' hg' => hclean g' (List.mem_cons_of_mem _ hg')]
    by_cases hres : groupResolved st g
    · rw [if_pos hres, List.filter_cons_of_pos (p := fun g => groupResolved st g) (decide_eq_true hres),
        List.map_cons]
      rfl
    · rw [if_neg hres, List.filter_cons_of_neg (p := fun g => groupResolved st g) (by rwa [decide_eq_true_iff])]
      rfl

/-- The first group with an error of its own ends the scan. -/
theorem resolveGroups_of_first_error (l : Nat) {gs : List Nat} (hsorted : gs.Pairwise (· < ·)) {g : Nat} (hg : g ∈ gs)
    {r : Report} (herr : resolveGroup (groupMembers st.zipIdx g) g l = .error r)
    (hclean : ∀ g' ∈ gs, g' < g → groupClean st g') :
    resolveGroups st.zipIdx l gs = .error r := by
  induction gs with
  | nil => exact absurd hg List.not_mem_nil
  | cons g' gs ih =>
    obtain ⟨hhead, htail⟩ := List.pairwise_cons.1 hsorted
    rcases List.mem_cons.1 hg with rfl | hmem
    · rw [resolveGroups, herr]
    · rw [resolveGroups, resolveGroup_clean l (hclean g' List.mem_cons_self (hhead g hmem)),
        ih htail hmem fun m hm => hclean m (List.mem_cons_of_mem _ hm)]

/-- The resolved groups' points, in ascending order of groups. -/
theorem resolveGroups_range_clean (l : Nat) (hclean : ∀ g < 16, groupClean st g) :
    resolveGroups st.zipIdx l (List.range 16) = .ok ((resolvedGroups st).map (groupPoint st l)) :=
  resolveGroups_clean l fun g hg => hclean g (List.mem_range.1 hg)

theorem resolveGroups_range_error (l : Nat) {g : Nat} (hg : g < 16) {r : Report}
    (herr : resolveGroup (groupMembers st.zipIdx g) g l = .error r) (hclean : ∀ g' < g, groupClean st g') :
    resolveGroups st.zipIdx l (List.range 16) = .error r :=
  resolveGroups_of_first_error l List.pairwise_lt_range (List.mem_range.2 hg) herr fun g' _ => hclean g'

/-! ### The store's secret -/

/-- The secret of a store: interpolated from the first `gt` resolved groups (R162). -/
def storeSecret (st : List StoreEntry) : List Byte :=
  interp0 (((resolvedGroups st).take (entryAt st 0).fields.gt.toNat).map (groupPoint st (entryAt st 0).value.length))
    (entryAt st 0).value.length

theorem recoverSecret_of_disagreement {k c : Nat} (hk : k < st.length)
    (hit : disagreement (entryAt st 0) (entryAt st k) = some c)
    (hfirst : ∀ m < k, disagreement (entryAt st 0) (entryAt st m) = none) :
    recoverSecret st = .error ⟨.mismatchedShareSet, k, c⟩ := by
  cases st with
  | nil => exact absurd hk (Nat.not_lt_zero k)
  | cons e es =>
    have hscan : firstMismatch e (e :: es).zipIdx = some ⟨.mismatchedShareSet, k, c⟩ :=
      firstMismatch_zipIdx_of_first hk hit hfirst
    simp only [recoverSecret, hscan]

theorem recoverSecret_of_groupError (hne : st ≠ []) (hagree : storeAgrees st) {r : Report}
    (herr : resolveGroups st.zipIdx (entryAt st 0).value.length (List.range 16) = .error r) :
    recoverSecret st = .error r := by
  obtain ⟨e, es, rfl⟩ := List.exists_cons_of_ne_nil hne
  have hscan : firstMismatch e (e :: es).zipIdx = none := firstMismatch_zipIdx_of_agree hagree
  change resolveGroups (e :: es).zipIdx e.value.length (List.range 16) = .error r at herr
  simp only [recoverSecret, hscan, herr]

theorem recoverSecret_clean (hne : st ≠ []) (hagree : storeAgrees st) (hclean : ∀ g < 16, groupClean st g) :
    recoverSecret st =
      if (resolvedGroups st).length < (entryAt st 0).fields.gt.toNat then
        .error ⟨.insufficientGroups, (resolvedGroups st).length, (entryAt st 0).fields.gt.toNat⟩
      else .ok (storeSecret st) := by
  obtain ⟨e, es, rfl⟩ := List.exists_cons_of_ne_nil hne
  have hscan : firstMismatch e (e :: es).zipIdx = none := firstMismatch_zipIdx_of_agree hagree
  have hgroups := resolveGroups_range_clean e.value.length hclean
  simp only [recoverSecret, hscan, hgroups, List.length_map, ← List.map_take]
  rfl

theorem interp0_getD (ps : List Point) {j l : Nat} (hj : j < l) :
    (interp0 ps l).getD j 0 = lagrangeAtZero (ps.map (Point.byteAt j)) := by
  rw [interp0, getD_map_range _ _ hj, interpByte_eq_lagrangeAtZero]

theorem storeSecret_length (st : List StoreEntry) : (storeSecret st).length = (entryAt st 0).value.length := by
  simp [storeSecret, interp0]

theorem storeSecret_getD {j : Nat} (hj : j < (entryAt st 0).value.length) :
    (storeSecret st).getD j 0 = secretByte st j := by
  have hgroup : ∀ g, (groupPoint st (entryAt st 0).value.length g).y.getD j 0 = groupValueByte st g j := fun g => by
    rw [groupPoint, interp0_getD _ hj, List.map_map]
    rfl
  rw [storeSecret, interp0_getD _ hj, List.map_map, secretByte]
  exact congrArg lagrangeAtZero (List.map_congr_left fun g _ => congrArg (Prod.mk _) (hgroup g))

end

/-! ### SS.RECOVER -/

section
variable {s : State}

theorem exec_ssRecover_error {r : Report} (h : recoverSecret s.store = .error r) :
    exec .ssRecover s = .next (s.report r) := by
  simp only [exec, execSsRecover, h]
  rfl

theorem exec_ssRecover_ok {secret : List Byte} (h : recoverSecret s.store = .ok secret) :
    exec .ssRecover s = .next { s with
      secret := overwrite s.secret secret
      len := BitVec.ofNat 6 secret.length
      done := true
      phase := .idle } := by
  simp only [exec, execSsRecover, h]
  rfl

end

/-- Settles O58: the scans of the store and of each group find the errors in their order, and the groups that are
resolved give the points the secret is interpolated from. -/
theorem ssRecoverRebuildsTheSecret : Obligations.SsRecoverRebuildsTheSecret := by
  refine ⟨ssRecover_encodesAs, fun s => ⟨fun hnil => ?_, fun k hk c hit hfirst => ?_, fun hne hagree =>
    ⟨fun g hg hbefore => ⟨fun k hk hit hfirst => ?_, fun hthreshold k hk hit hfirst => ?_⟩,
      fun hclean => ⟨fun hfew => ?_, fun henough => ?_⟩⟩⟩⟩
  · exact exec_ssRecover_error (by rw [hnil, recoverSecret])
  · exact exec_ssRecover_error (recoverSecret_of_disagreement hk hit hfirst)
  · exact exec_ssRecover_error (recoverSecret_of_groupError hne hagree
      (resolveGroups_range_error _ hg (resolveGroup_mismatch _ hk hit hfirst) hbefore))
  · exact exec_ssRecover_error (recoverSecret_of_groupError hne hagree
      (resolveGroups_range_error _ hg (resolveGroup_conflict _ hthreshold hk hit hfirst) hbefore))
  · exact exec_ssRecover_error ((recoverSecret_clean hne hagree hclean).trans (if_pos hfew))
  · have hok := (recoverSecret_clean hne hagree hclean).trans (if_neg henough.not_gt)
    refine ⟨_, exec_ssRecover_ok hok, congrArg (BitVec.ofNat 6) (storeSecret_length _), fun j hj => ?_, rfl⟩
    simp only [secretAt]
    rw [overwrite_getD _ _ _ _ hj, storeSecret_length]
    exact ite_congr rfl (fun hjl => storeSecret_getD hjl) fun _ => rfl

end Sys2Proof.Machine
end

section
/-! PROOFS. Group correctness: a two-level split is recovered from enough groups with enough members
(45_share_codec.md R164). -/

namespace Sys2Proof.Machine

open Sys2Proof.Claims

/-- The entry is a share of a two-level split: group `g`'s values are on polynomials with coefficients `b g` and
threshold `mts g`, read at the member's x (R156). -/
def IsSplitShare (f : ShareFields) (l : Nat) (mts : Nat → Nat) (b : Nat → Nat → Nat → Byte) (e : StoreEntry) : Prop :=
  e.fields.id = f.id ∧ e.fields.ie = f.ie ∧ e.fields.gc = f.gc ∧ e.fields.gt = f.gt ∧
    e.fields.mt.toNat = mts e.fields.gi.toNat ∧
    e.value = (List.range l).map fun j =>
      polyAt (fun k => b e.fields.gi.toNat k j) (mts e.fields.gi.toNat) (e.fields.mi.setWidth 8 + 1)

theorem entryAt_mem {st : List StoreEntry} {k : Nat} (hk : k < st.length) : entryAt st k ∈ st := by
  rw [entryAt, List.getD_eq_getElem _ _ hk]
  exact List.getElem_mem hk

theorem mem_groupSlots {st : List StoreEntry} {g k : Nat} :
    k ∈ groupSlots st g ↔ k < st.length ∧ (entryAt st k).fields.gi.toNat = g := by
  simp [groupSlots]

/-- The entries of a group are those in its slots. -/
theorem filter_group_eq_map (st : List StoreEntry) (g : Nat) :
    (st.filter fun e => e.fields.gi.toNat = g) = (groupSlots st g).map (entryAt st) := by
  have hstore : st = (List.range st.length).map (entryAt st) := by
    refine List.ext_getElem (by simp) fun k hk _ => ?_
    rw [List.getElem_map, List.getElem_range, entryAt, List.getD_eq_getElem _ _ hk]
  conv_lhs => rw [hstore, List.filter_map]
  rfl

/-- A member index and its x-coordinate. -/
theorem memberX_injective : Function.Injective fun mi : BitVec 4 => (mi.setWidth 8 + 1 : Byte) := by decide

/-- There are as many member slots as distinct member indices. -/
theorem memberSlots_length (st : List StoreEntry) (g : Nat) :
    (memberSlots st g).length =
      ((st.filter fun e => e.fields.gi.toNat = g).map fun e => e.fields.mi).toFinset.card := by
  have himage : ((groupSlots st g).map fun k => (memberAt st k).x).toFinset =
      (((groupSlots st g).map fun k => (entryAt st k).fields.mi).toFinset).image
        fun mi => (mi.setWidth 8 + 1 : Byte) := by
    ext x
    simp only [List.mem_toFinset, List.mem_map, Finset.mem_image, exists_exists_and_eq_and]
    rfl
  rw [← firstSlots_memberAt, firstSlots_length (groupSlots_pairwise st g), himage,
    Finset.card_image_of_injective _ memberX_injective, filter_group_eq_map, List.map_map]
  rfl

section
variable {st : List StoreEntry} {f : ShareFields} {l : Nat} {mts : Nat → Nat} {b : Nat → Nat → Nat → Byte}
  (hshares : ∀ e ∈ st, IsSplitShare f l mts b e)
include hshares

theorem storeAgrees_of_split (hne : st ≠ []) : storeAgrees st := by
  intro k hk
  obtain ⟨hid, hie, hgc, hgt, -, hvalue⟩ := hshares _ (entryAt_mem (List.length_pos_of_ne_nil hne))
  obtain ⟨hid', hie', hgc', hgt', -, hvalue'⟩ := hshares _ (entryAt_mem hk)
  simp [disagreement, hid, hie, hgc, hgt, hvalue, hid', hie', hgc', hgt', hvalue']

theorem mt_of_split {g k : Nat} (hk : k ∈ groupSlots st g) : (entryAt st k).fields.mt.toNat = mts g := by
  obtain ⟨hlt, rfl⟩ := mem_groupSlots.1 hk
  obtain ⟨-, -, -, -, hmt, -⟩ := hshares _ (entryAt_mem hlt)
  exact hmt

theorem value_of_split {g k : Nat} (hk : k ∈ groupSlots st g) :
    (entryAt st k).value = (List.range l).map fun j =>
      polyAt (fun i => b g i j) (mts g) ((entryAt st k).fields.mi.setWidth 8 + 1) := by
  obtain ⟨hlt, rfl⟩ := mem_groupSlots.1 hk
  obtain ⟨-, -, -, -, -, hvalue⟩ := hshares _ (entryAt_mem hlt)
  exact hvalue

theorem groupMt_of_split {g : Nat} (hne : groupSlots st g ≠ []) : groupMt st g = mts g := by
  obtain ⟨k, ks, hcons⟩ := List.exists_cons_of_ne_nil hne
  rw [groupMt, hcons, List.headD_cons]
  exact mt_of_split hshares (hcons ▸ List.mem_cons_self)

theorem groupClean_of_split (g : Nat) : groupClean st g := by
  refine ⟨fun k hk => ?_, fun k hk ⟨m, hm, _, hmi, hvalue⟩ => hvalue ?_⟩
  · rw [mt_of_split hshares hk, groupMt_of_split hshares (List.ne_nil_of_mem hk)]
  · rw [value_of_split hshares hm, value_of_split hshares hk, hmi]

/-- A group of a split is resolved where it has its threshold of distinct members. -/
theorem groupResolved_of_split {g : Nat} (hmts : 1 ≤ mts g) :
    groupResolved st g ↔ mts g ≤ (memberSlots st g).length := by
  by_cases hnil : groupSlots st g = []
  · have hlength : (memberSlots st g).length = 0 := by rw [memberSlots, hnil]; rfl
    exact iff_of_false (fun h => h.1 hnil) (by omega)
  · rw [groupResolved, groupMt_of_split hshares hnil]
    exact and_iff_right hnil

/-- A resolved group's interpolated value is the constant term of its polynomials. -/
theorem groupValueByte_of_split {g j : Nat} (hj : j < l) (hmts : 1 ≤ mts g) (hres : groupResolved st g) :
    groupValueByte st g j = b g 0 j := by
  obtain ⟨hne, henough⟩ := hres
  have hmt := groupMt_of_split hshares hne
  refine lagrangeAtZero_polyAt (c := fun i => b g i j) hmts ?_ ?_ fun p hp => ?_
  · rw [List.length_map, List.length_take, ← hmt, Nat.min_eq_left henough]
  · have hnodup := firstSlots_nodup_x (f := memberAt st) (groupSlots_pairwise st g)
    rw [firstSlots_memberAt] at hnodup
    rw [List.map_map]
    exact hnodup.sublist ((List.take_sublist _ _).map _)
  · obtain ⟨k, hk, rfl⟩ := List.mem_map.1 hp
    have hmem : k ∈ groupSlots st g := (List.mem_filter.1 (List.mem_of_mem_take hk)).1
    rw [value_of_split hshares hmem]
    exact getD_map_range _ _ hj

/-- The secret's byte is the constant term of the group-level polynomial. -/
theorem secretByte_of_split {a : Nat → Nat → Byte} {j : Nat} (hne : st ≠ []) (hj : j < l) (hgt : 1 ≤ f.gt.toNat)
    (hmts : ∀ g < 16, 1 ≤ mts g)
    (hb : ∀ g < 16, ∀ j < l, b g 0 j = polyAt (fun k => a k j) f.gt.toNat (BitVec.ofNat 8 (g + 1)))
    (henough : f.gt.toNat ≤ (resolvedGroups st).length) : secretByte st j = a 0 j := by
  obtain ⟨-, -, -, hfirst, -, -⟩ := hshares _ (entryAt_mem (List.length_pos_of_ne_nil hne))
  rw [secretByte, hfirst]
  refine lagrangeAtZero_polyAt (c := fun k => a k j) hgt ?_ ?_ fun p hp => ?_
  · rw [List.length_map, List.length_take, Nat.min_eq_left henough]
  · have hnodup : ((List.range 16).map fun g => BitVec.ofNat 8 (g + 1)).Nodup := by decide
    rw [List.map_map]
    exact hnodup.sublist (((List.take_sublist _ _).trans List.filter_sublist).map _)
  · obtain ⟨g, hg, rfl⟩ := List.mem_map.1 hp
    obtain ⟨hrange, hres⟩ := List.mem_filter.1 (List.mem_of_mem_take hg)
    have hg16 := List.mem_range.1 hrange
    exact (groupValueByte_of_split hshares hj (hmts g hg16) (of_decide_eq_true hres)).trans (hb g hg16 j hj)

end

/-- Settles O59: a split's store has no mismatch and no conflict, its groups are resolved exactly where they have
their threshold of distinct members, and both interpolations give back constant terms. -/
theorem groupRecoveryIsCorrect : Obligations.GroupRecoveryIsCorrect := by
  intro s f l mts a b hne _ hgt hmts hb hshares members resolved
  replace hshares : ∀ e ∈ s.store, IsSplitShare f l mts b e := hshares
  obtain ⟨-, -, -, hfirst, -, hvalue⟩ := hshares _ (entryAt_mem (List.length_pos_of_ne_nil hne))
  have hvalueLen : (entryAt s.store 0).value.length = l := by rw [hvalue, List.length_map, List.length_range]
  have hresolved : (resolvedGroups s.store).length = resolved := by
    refine congrArg List.length (List.filter_congr fun g hg => decide_eq_decide.2 ?_)
    rw [show members g = (memberSlots s.store g).length from (memberSlots_length _ _).symm]
    exact groupResolved_of_split hshares (hmts g (List.mem_range.1 hg))
  obtain ⟨-, -, hrun⟩ := ssRecoverRebuildsTheSecret.2 s
  obtain ⟨-, hclean⟩ := hrun hne (storeAgrees_of_split hshares hne)
  obtain ⟨hfew, henough⟩ := hclean fun g _ => groupClean_of_split hshares g
  rw [hfirst, hresolved] at hfew henough
  refine ⟨fun h => ?_, hfew⟩
  obtain ⟨u, hexec, hlen, hsecret, hframe⟩ := henough h
  rw [hvalueLen] at hlen
  refine ⟨u, hexec, hlen, fun j hj => (hsecret j hj).trans ?_, hframe⟩
  rw [hvalueLen]
  exact ite_congr rfl (fun hjl => secretByte_of_split hshares hne hjl hgt hmts hb (hresolved ▸ h)) fun _ => rfl

end Sys2Proof.Machine
end
